-- ==== Sys2Proof/Word.lean ====
section
/-! DEFINITION. The two word widths the block moves (spec 00_scope.md R16): bytes, and the 16-bit chip id and program
counter of the debug-wire target. Everything else the spec counts is a bounded `Nat`, a `Bool` or an enumeration. -/

namespace Sys2Proof

/-- A byte, unsigned 0..255 (R16); bit 0 is the least significant bit (R17). -/
abbrev Byte := BitVec 8

/-- A 16-bit unsigned value: a debug-wire chip id or program counter (R16). -/
abbrev Half := BitVec 16

end Sys2Proof
end

