-- ==== Sys2Proof/Syntax.lean ====
section
/-! DEFINITION. The modes of the block and its commands, one constructor for each row of spec/opcode_table.json. A command
is its opcode byte with the fields of its format (spec 30_encoding.md R111), or the four bytes of a debug-proxy frame
(R119). Payload bytes of a bulk write, the closing byte of a self-test and the bytes of a table upload are no operands:
the framer consumes them one by one after the command has begun (R133, `S.pending` of 10_state.md R35). Fields the block
ignores (R132) are kept, so that a command is its bytes. -/

namespace Sys2Proof

/-- The current mode `S.mode` (10_state.md R31): which table decodes the next byte. -/
inductive Mode where
  /-- the outer mode selector -/
  | select
  /-- the bit-bang dispatcher -/
  | bbio
  /-- I2C sub-mode -/
  | i2c
  /-- 1-Wire sub-mode -/
  | ow
  /-- raw-wire sub-mode -/
  | raw
  /-- the debug proxy -/
  | ccproxy
  /-- control is with the shell collaborator, which is outside the block (R6) -/
  | shell
  deriving DecidableEq, Repr, Inhabited

/-- The commands of every mode. -/
inductive Instr where
  -- SELECT (R136)
  | selCcproxy
  | selShell
  | selZero
  | selOther (b : Byte)
  -- BBIO (R128)
  | bbReset
  | bbVersion
  | bbI2c
  | bbOw
  | bbRaw
  | bbShell
  | bbSelftest
  | bbSelftestLong
  | bbPindir (a o d m c : Bool)
  | bbPinset (p q a o d m c : Bool)
  | bbUnknown (op : Byte)
  -- I2C (R129)
  | i2cExit
  | i2cVersion
  | i2cStart
  | i2cStop
  | i2cRead
  | i2cAck
  | i2cNack
  | i2cWrite (n : BitVec 4)
  | i2cPeriph (w x y z : Bool)
  | i2cSpeed (tier : BitVec 2)
  | i2cUnknown (op : Byte)
  -- OW (R129)
  | owExit
  | owVersion
  | owReset
  | owRead
  | owSearchRom
  | owSearchAlarm
  | owWrite (n : BitVec 4)
  | owPeriph (w x y z : Bool)
  | owUnknown (op : Byte)
  -- RAW (R129)
  | rawExit
  | rawVersion
  | rawStart
  | rawStop
  | rawCsLow
  | rawCsHigh
  | rawReadByte
  | rawReadBit
  | rawPeek
  | rawTick
  | rawClkLow
  | rawClkHigh
  | rawDatLow
  | rawDatHigh
  | rawWrite (n : BitVec 4)
  | rawPeriph (w x y z : Bool)
  | rawSpeed (tier : BitVec 2)
  | rawConfig (w x y z : Bool)
  | rawUnknown (op : Byte)
  -- CCPROXY (R130): the frame's three argument bytes
  | ccPing (a0 a1 a2 : Byte)
  | ccEnter (a0 a1 a2 : Byte)
  | ccExit (a0 a1 a2 : Byte)
  | ccChipId (a0 a1 a2 : Byte)
  | ccStatus (a0 a1 a2 : Byte)
  | ccPc (a0 a1 a2 : Byte)
  | ccStep (a0 a1 a2 : Byte)
  | ccExec1 (a0 a1 a2 : Byte)
  | ccExec2 (a0 a1 a2 : Byte)
  | ccExec3 (a0 a1 a2 : Byte)
  | ccBurstWrite (a0 a1 a2 : Byte)
  | ccRdCfg (a0 a1 a2 : Byte)
  | ccWrCfg (a0 a1 a2 : Byte)
  | ccChipErase (a0 a1 a2 : Byte)
  | ccResume (a0 a1 a2 : Byte)
  | ccHalt (a0 a1 a2 : Byte)
  | ccInstrVer (a0 a1 a2 : Byte)
  | ccInstrUpd (a0 a1 a2 : Byte)
  | ccUnknown (op a0 a1 a2 : Byte)
  deriving DecidableEq, Repr

/-- What decides the decoding of a byte besides the byte itself: the mode (R127), and in `SELECT` whether the byte is the
first of the first chunk (R136, R391). -/
structure Context where
  mode : Mode
  leading : Bool
  deriving DecidableEq, Repr

/-- The context in which a command's encoding means that command: its row's `mode` in spec/opcode_table.json, and for the
two leading-byte rows the first position of the first chunk. -/
def Instr.context : Instr → Context
  | .selCcproxy | .selShell => ⟨.select, true⟩
  | .selZero | .selOther _ => ⟨.select, false⟩
  | .bbReset | .bbVersion | .bbI2c | .bbOw | .bbRaw | .bbShell | .bbSelftest | .bbSelftestLong
  | .bbPindir _ _ _ _ _ | .bbPinset _ _ _ _ _ _ _ | .bbUnknown _ => ⟨.bbio, false⟩
  | .i2cExit | .i2cVersion | .i2cStart | .i2cStop | .i2cRead | .i2cAck | .i2cNack | .i2cWrite _
  | .i2cPeriph _ _ _ _ | .i2cSpeed _ | .i2cUnknown _ => ⟨.i2c, false⟩
  | .owExit | .owVersion | .owReset | .owRead | .owSearchRom | .owSearchAlarm | .owWrite _
  | .owPeriph _ _ _ _ | .owUnknown _ => ⟨.ow, false⟩
  | .rawExit | .rawVersion | .rawStart | .rawStop | .rawCsLow | .rawCsHigh | .rawReadByte
  | .rawReadBit | .rawPeek | .rawTick | .rawClkLow | .rawClkHigh | .rawDatLow | .rawDatHigh
  | .rawWrite _ | .rawPeriph _ _ _ _ | .rawSpeed _ | .rawConfig _ _ _ _ | .rawUnknown _ => ⟨.raw, false⟩
  | .ccPing _ _ _ | .ccEnter _ _ _ | .ccExit _ _ _ | .ccChipId _ _ _ | .ccStatus _ _ _ | .ccPc _ _ _
  | .ccStep _ _ _ | .ccExec1 _ _ _ | .ccExec2 _ _ _ | .ccExec3 _ _ _ | .ccBurstWrite _ _ _
  | .ccRdCfg _ _ _ | .ccWrCfg _ _ _ | .ccChipErase _ _ _ | .ccResume _ _ _ | .ccHalt _ _ _
  | .ccInstrVer _ _ _ | .ccInstrUpd _ _ _ | .ccUnknown _ _ _ _ => ⟨.ccproxy, false⟩

end Sys2Proof
end

