-- ==== Sys2Proof/WellFormed.lean ====
section
/-! DEFINITION. Which commands are well formed. Every field of every format admits every value (spec 30_encoding.md R132),
so the one check there is concerns the fallback rows: an `UNKNOWN` command carries a byte its mode's map does not list.
The ranges are those the rules of the fallback rows print (R175, R238, R298, R409), not read off the decoder. -/

namespace Sys2Proof

/-- Whether `b` lies in one of the closed ranges. -/
def inRanges (b : Byte) (ranges : List (Nat × Nat)) : Bool :=
  ranges.any fun r => decide (r.1 ≤ b.toNat) && decide (b.toNat ≤ r.2)

/-- `BB.UNKNOWN`: 0x03, 0x06-0x0E, 0x12-0x3F, 0x60-0x7F (R409). -/
def bbUnlisted (b : Byte) : Bool :=
  inRanges b [(0x03, 0x03), (0x06, 0x0E), (0x12, 0x3F), (0x60, 0x7F)]

/-- `I2C.UNKNOWN`: 0x05, 0x08-0x0F, 0x20-0x3F, 0x50-0x5F, 0x64-0xFF (R175). -/
def i2cUnlisted (b : Byte) : Bool :=
  inRanges b [(0x05, 0x05), (0x08, 0x0F), (0x20, 0x3F), (0x50, 0x5F), (0x64, 0xFF)]

/-- `OW.UNKNOWN`: 0x03, 0x05-0x07, 0x0A-0x0F, 0x20-0x3F, 0x50-0xFF (R238). -/
def owUnlisted (b : Byte) : Bool :=
  inRanges b [(0x03, 0x03), (0x05, 0x07), (0x0A, 0x0F), (0x20, 0x3F), (0x50, 0xFF)]

/-- `RAW.UNKNOWN`: 0x0E, 0x0F, 0x20-0x3F, 0x50-0x5F, 0x64-0x7F, 0x90-0xFF (R298). -/
def rawUnlisted (b : Byte) : Bool :=
  inRanges b [(0x0E, 0x0F), (0x20, 0x3F), (0x50, 0x5F), (0x64, 0x7F), (0x90, 0xFF)]

/-- `CC.UNKNOWN`: every `op` that R130 does not list (R483). -/
def ccUnlisted (op : Byte) : Bool :=
  inRanges op [(0x00, 0x00), (0x10, 0xEF), (0xF3, 0xFF)]

/-- The well-formed commands. -/
def Instr.wellFormed : Instr → Bool
  | .selOther b => b != 0x00#8
  | .bbUnknown op => bbUnlisted op
  | .i2cUnknown op => i2cUnlisted op
  | .owUnknown op => owUnlisted op
  | .rawUnknown op => rawUnlisted op
  | .ccUnknown op _ _ _ => ccUnlisted op
  | .selCcproxy | .selShell | .selZero => true
  | .bbReset | .bbVersion | .bbI2c | .bbOw | .bbRaw | .bbShell | .bbSelftest | .bbSelftestLong
  | .bbPindir _ _ _ _ _ | .bbPinset _ _ _ _ _ _ _ => true
  | .i2cExit | .i2cVersion | .i2cStart | .i2cStop | .i2cRead | .i2cAck | .i2cNack | .i2cWrite _
  | .i2cPeriph _ _ _ _ | .i2cSpeed _ => true
  | .owExit | .owVersion | .owReset | .owRead | .owSearchRom | .owSearchAlarm | .owWrite _
  | .owPeriph _ _ _ _ => true
  | .rawExit | .rawVersion | .rawStart | .rawStop | .rawCsLow | .rawCsHigh | .rawReadByte
  | .rawReadBit | .rawPeek | .rawTick | .rawClkLow | .rawClkHigh | .rawDatLow | .rawDatHigh
  | .rawWrite _ | .rawPeriph _ _ _ _ | .rawSpeed _ | .rawConfig _ _ _ _ => true
  | .ccPing _ _ _ | .ccEnter _ _ _ | .ccExit _ _ _ | .ccChipId _ _ _ | .ccStatus _ _ _ | .ccPc _ _ _
  | .ccStep _ _ _ | .ccExec1 _ _ _ | .ccExec2 _ _ _ | .ccExec3 _ _ _ | .ccBurstWrite _ _ _
  | .ccRdCfg _ _ _ | .ccWrCfg _ _ _ | .ccChipErase _ _ _ | .ccResume _ _ _ | .ccHalt _ _ _
  | .ccInstrVer _ _ _ | .ccInstrUpd _ _ _ => true

end Sys2Proof
end

