-- ==== Sys2Proof/Decode.lean ====
section
/-! DEFINITION. The decoder and the encoder of every mode's commands (spec 30_encoding.md R110-R136), and the reading of a
row of spec/opcode_table.json as a number (`decodeTableWord`). Decoding is by the table of the current mode only (R127);
every byte decodes to some command (R131), so the decoder rejects only an input with too few bytes and the mode that
decodes nothing, each by name. -/

namespace Sys2Proof

/-! ### Fields -/

/-- Field bit `b[k]` (R17). -/
def fieldBit (b : Byte) (k : Nat) : Bool := b.getLsbD k

/-- The pattern test of a format: the byte agrees with `pattern` on the bits of `mask` (R111). -/
def fits (mask pattern b : Byte) : Bool := (b &&& mask) == pattern

/-- The `BULK` field `n = op[3:0]` (R113). -/
def bulkField (b : Byte) : BitVec 4 := b.extractLsb' 0 4

/-- The `SPEED` field `s = op[1:0]` (R115). -/
def speedField (b : Byte) : BitVec 2 := b.extractLsb' 0 2

/-! ### The maps -/

/-- `SELECT` classifies bytes (R136): the two leading values only at the first byte of the first chunk. -/
def decodeSelect (leading : Bool) (b : Byte) : Instr :=
  if leading && b == 0xF0#8 then .selCcproxy
  else if leading && b == 0x0D#8 then .selShell
  else if b == 0x00#8 then .selZero
  else .selOther b

/-- The BBIO map (R128). -/
def decodeBbio (b : Byte) : Instr :=
  if b == 0x00#8 then .bbReset
  else if b == 0x01#8 then .bbVersion
  else if b == 0x02#8 then .bbI2c
  else if b == 0x04#8 then .bbOw
  else if b == 0x05#8 then .bbRaw
  else if b == 0x0F#8 then .bbShell
  else if b == 0x10#8 then .bbSelftest
  else if b == 0x11#8 then .bbSelftestLong
  else if fits 0xE0#8 0x40#8 b then
    .bbPindir (fieldBit b 4) (fieldBit b 3) (fieldBit b 2) (fieldBit b 1) (fieldBit b 0)
  else if fits 0x80#8 0x80#8 b then
    .bbPinset (fieldBit b 6) (fieldBit b 5)
      (fieldBit b 4) (fieldBit b 3) (fieldBit b 2) (fieldBit b 1) (fieldBit b 0)
  else .bbUnknown b

/-- The I2C map (R129). -/
def decodeI2c (b : Byte) : Instr :=
  if b == 0x00#8 then .i2cExit
  else if b == 0x01#8 then .i2cVersion
  else if b == 0x02#8 then .i2cStart
  else if b == 0x03#8 then .i2cStop
  else if b == 0x04#8 then .i2cRead
  else if b == 0x06#8 then .i2cAck
  else if b == 0x07#8 then .i2cNack
  else if fits 0xF0#8 0x10#8 b then .i2cWrite (bulkField b)
  else if fits 0xF0#8 0x40#8 b then
    .i2cPeriph (fieldBit b 3) (fieldBit b 2) (fieldBit b 1) (fieldBit b 0)
  else if fits 0xFC#8 0x60#8 b then .i2cSpeed (speedField b)
  else .i2cUnknown b

/-- The 1-Wire map (R129). -/
def decodeOw (b : Byte) : Instr :=
  if b == 0x00#8 then .owExit
  else if b == 0x01#8 then .owVersion
  else if b == 0x02#8 then .owReset
  else if b == 0x04#8 then .owRead
  else if b == 0x08#8 then .owSearchRom
  else if b == 0x09#8 then .owSearchAlarm
  else if fits 0xF0#8 0x10#8 b then .owWrite (bulkField b)
  else if fits 0xF0#8 0x40#8 b then
    .owPeriph (fieldBit b 3) (fieldBit b 2) (fieldBit b 1) (fieldBit b 0)
  else .owUnknown b

/-- The raw-wire map (R129). -/
def decodeRaw (b : Byte) : Instr :=
  if b == 0x00#8 then .rawExit
  else if b == 0x01#8 then .rawVersion
  else if b == 0x02#8 then .rawStart
  else if b == 0x03#8 then .rawStop
  else if b == 0x04#8 then .rawCsLow
  else if b == 0x05#8 then .rawCsHigh
  else if b == 0x06#8 then .rawReadByte
  else if b == 0x07#8 then .rawReadBit
  else if b == 0x08#8 then .rawPeek
  else if b == 0x09#8 then .rawTick
  else if b == 0x0A#8 then .rawClkLow
  else if b == 0x0B#8 then .rawClkHigh
  else if b == 0x0C#8 then .rawDatLow
  else if b == 0x0D#8 then .rawDatHigh
  else if fits 0xF0#8 0x10#8 b then .rawWrite (bulkField b)
  else if fits 0xF0#8 0x40#8 b then
    .rawPeriph (fieldBit b 3) (fieldBit b 2) (fieldBit b 1) (fieldBit b 0)
  else if fits 0xFC#8 0x60#8 b then .rawSpeed (speedField b)
  else if fits 0xF0#8 0x80#8 b then
    .rawConfig (fieldBit b 3) (fieldBit b 2) (fieldBit b 1) (fieldBit b 0)
  else .rawUnknown b

/-- The debug-proxy map over a 4-byte frame (R119, R130). -/
def decodeFrame (op a0 a1 a2 : Byte) : Instr :=
  if op == 0xF0#8 then .ccPing a0 a1 a2
  else if op == 0x01#8 then .ccEnter a0 a1 a2
  else if op == 0x02#8 then .ccExit a0 a1 a2
  else if op == 0x03#8 then .ccChipId a0 a1 a2
  else if op == 0x04#8 then .ccStatus a0 a1 a2
  else if op == 0x05#8 then .ccPc a0 a1 a2
  else if op == 0x06#8 then .ccStep a0 a1 a2
  else if op == 0x07#8 then .ccExec1 a0 a1 a2
  else if op == 0x08#8 then .ccExec2 a0 a1 a2
  else if op == 0x09#8 then .ccExec3 a0 a1 a2
  else if op == 0x0A#8 then .ccBurstWrite a0 a1 a2
  else if op == 0x0B#8 then .ccRdCfg a0 a1 a2
  else if op == 0x0C#8 then .ccWrCfg a0 a1 a2
  else if op == 0x0D#8 then .ccChipErase a0 a1 a2
  else if op == 0x0E#8 then .ccResume a0 a1 a2
  else if op == 0x0F#8 then .ccHalt a0 a1 a2
  else if op == 0xF1#8 then .ccInstrVer a0 a1 a2
  else if op == 0xF2#8 then .ccInstrUpd a0 a1 a2
  else .ccUnknown op a0 a1 a2

/-! ### The decoder -/

/-- Why no command can be read from the bytes at hand. -/
inductive DecodeError where
  /-- no byte has arrived: the framer receives (R395) -/
  | noBytes
  /-- fewer than four bytes of a debug-proxy frame have arrived: the proxy receives (R461) -/
  | shortFrame
  /-- `SHELL` mode decodes nothing (R416) -/
  | noCommandsInShell
  deriving DecidableEq, Repr

/-- The next command of a byte sequence and the bytes after it, by the table of the mode (R127). -/
def decode (ctx : Context) (bytes : List Byte) : Except DecodeError (Instr × List Byte) :=
  match ctx.mode, bytes with
  | .shell, _ => .error .noCommandsInShell
  | .ccproxy, op :: a0 :: a1 :: a2 :: rest => .ok (decodeFrame op a0 a1 a2, rest)
  | .ccproxy, _ => .error .shortFrame
  | .select, b :: rest => .ok (decodeSelect ctx.leading b, rest)
  | .bbio, b :: rest => .ok (decodeBbio b, rest)
  | .i2c, b :: rest => .ok (decodeI2c b, rest)
  | .ow, b :: rest => .ok (decodeOw b, rest)
  | .raw, b :: rest => .ok (decodeRaw b, rest)
  | .select, [] | .bbio, [] | .i2c, [] | .ow, [] | .raw, [] => .error .noBytes

/-! ### The encoder, written from the formats of R111 -/

/-- `BULK`: `0001nnnn`. -/
def encodeBulk (n : BitVec 4) : Byte := 0b0001#4 ++ n

/-- `PERIPH`: `0100wxyz`. -/
def encodePeriph (w x y z : Bool) : Byte :=
  0b0100#4 ++ BitVec.ofBool w ++ BitVec.ofBool x ++ BitVec.ofBool y ++ BitVec.ofBool z

/-- `SPEED`: `011000ss`. -/
def encodeSpeed (tier : BitVec 2) : Byte := 0b011000#6 ++ tier

/-- `RAWCFG`: `1000wxyz`. -/
def encodeRawcfg (w x y z : Bool) : Byte :=
  0b1000#4 ++ BitVec.ofBool w ++ BitVec.ofBool x ++ BitVec.ofBool y ++ BitVec.ofBool z

/-- `PINDIR`: `010aodic`. -/
def encodePindir (a o d m c : Bool) : Byte :=
  0b010#3 ++ BitVec.ofBool a ++ BitVec.ofBool o ++ BitVec.ofBool d ++ BitVec.ofBool m ++ BitVec.ofBool c

/-- `PINSET`: `1pqaodic`. -/
def encodePinset (p q a o d m c : Bool) : Byte :=
  0b1#1 ++ BitVec.ofBool p ++ BitVec.ofBool q ++ BitVec.ofBool a ++ BitVec.ofBool o ++ BitVec.ofBool d
    ++ BitVec.ofBool m ++ BitVec.ofBool c

/-- The bytes of a command: its opcode byte, or its 4-byte frame (R133; payload bytes are not part of it). -/
def encode : Instr → List Byte
  | .selCcproxy => [0xF0#8]
  | .selShell => [0x0D#8]
  | .selZero => [0x00#8]
  | .selOther b => [b]
  | .bbReset => [0x00#8]
  | .bbVersion => [0x01#8]
  | .bbI2c => [0x02#8]
  | .bbOw => [0x04#8]
  | .bbRaw => [0x05#8]
  | .bbShell => [0x0F#8]
  | .bbSelftest => [0x10#8]
  | .bbSelftestLong => [0x11#8]
  | .bbPindir a o d m c => [encodePindir a o d m c]
  | .bbPinset p q a o d m c => [encodePinset p q a o d m c]
  | .bbUnknown op => [op]
  | .i2cExit => [0x00#8]
  | .i2cVersion => [0x01#8]
  | .i2cStart => [0x02#8]
  | .i2cStop => [0x03#8]
  | .i2cRead => [0x04#8]
  | .i2cAck => [0x06#8]
  | .i2cNack => [0x07#8]
  | .i2cWrite n => [encodeBulk n]
  | .i2cPeriph w x y z => [encodePeriph w x y z]
  | .i2cSpeed tier => [encodeSpeed tier]
  | .i2cUnknown op => [op]
  | .owExit => [0x00#8]
  | .owVersion => [0x01#8]
  | .owReset => [0x02#8]
  | .owRead => [0x04#8]
  | .owSearchRom => [0x08#8]
  | .owSearchAlarm => [0x09#8]
  | .owWrite n => [encodeBulk n]
  | .owPeriph w x y z => [encodePeriph w x y z]
  | .owUnknown op => [op]
  | .rawExit => [0x00#8]
  | .rawVersion => [0x01#8]
  | .rawStart => [0x02#8]
  | .rawStop => [0x03#8]
  | .rawCsLow => [0x04#8]
  | .rawCsHigh => [0x05#8]
  | .rawReadByte => [0x06#8]
  | .rawReadBit => [0x07#8]
  | .rawPeek => [0x08#8]
  | .rawTick => [0x09#8]
  | .rawClkLow => [0x0A#8]
  | .rawClkHigh => [0x0B#8]
  | .rawDatLow => [0x0C#8]
  | .rawDatHigh => [0x0D#8]
  | .rawWrite n => [encodeBulk n]
  | .rawPeriph w x y z => [encodePeriph w x y z]
  | .rawSpeed tier => [encodeSpeed tier]
  | .rawConfig w x y z => [encodeRawcfg w x y z]
  | .rawUnknown op => [op]
  | .ccPing a0 a1 a2 => [0xF0#8, a0, a1, a2]
  | .ccEnter a0 a1 a2 => [0x01#8, a0, a1, a2]
  | .ccExit a0 a1 a2 => [0x02#8, a0, a1, a2]
  | .ccChipId a0 a1 a2 => [0x03#8, a0, a1, a2]
  | .ccStatus a0 a1 a2 => [0x04#8, a0, a1, a2]
  | .ccPc a0 a1 a2 => [0x05#8, a0, a1, a2]
  | .ccStep a0 a1 a2 => [0x06#8, a0, a1, a2]
  | .ccExec1 a0 a1 a2 => [0x07#8, a0, a1, a2]
  | .ccExec2 a0 a1 a2 => [0x08#8, a0, a1, a2]
  | .ccExec3 a0 a1 a2 => [0x09#8, a0, a1, a2]
  | .ccBurstWrite a0 a1 a2 => [0x0A#8, a0, a1, a2]
  | .ccRdCfg a0 a1 a2 => [0x0B#8, a0, a1, a2]
  | .ccWrCfg a0 a1 a2 => [0x0C#8, a0, a1, a2]
  | .ccChipErase a0 a1 a2 => [0x0D#8, a0, a1, a2]
  | .ccResume a0 a1 a2 => [0x0E#8, a0, a1, a2]
  | .ccHalt a0 a1 a2 => [0x0F#8, a0, a1, a2]
  | .ccInstrVer a0 a1 a2 => [0xF1#8, a0, a1, a2]
  | .ccInstrUpd a0 a1 a2 => [0xF2#8, a0, a1, a2]
  | .ccUnknown op a0 a1 a2 => [op, a0, a1, a2]

/-! ### A row of the opcode table as a number -/

/-- The bytes of a command whose bits are `w`, bit 0 the least significant bit of the first byte: four bytes, enough for
the longest command, a `FRAME4` (R133). -/
def tableBytes (w : Nat) : List Byte :=
  [BitVec.ofNat 8 w, BitVec.ofNat 8 (w / 0x100), BitVec.ofNat 8 (w / 0x10000), BitVec.ofNat 8 (w / 0x1000000)]

/-- The maps whose rows fix all eight bits of the opcode byte list it. -/
def fixedIn (m : Mode) (b : Byte) : Bool :=
  match m with
  | .select => inRanges b [(0x00, 0x00), (0x0D, 0x0D), (0xF0, 0xF0)]
  | .bbio => inRanges b [(0x00, 0x02), (0x04, 0x05), (0x0F, 0x11)]
  | .i2c => inRanges b [(0x00, 0x04), (0x06, 0x07)]
  | .ow => inRanges b [(0x00, 0x02), (0x04, 0x04), (0x08, 0x09)]
  | .raw => inRanges b [(0x00, 0x0D)]
  | .ccproxy => inRanges b [(0x01, 0x0F), (0xF0, 0xF2)]
  | .shell => false

/-- The maps that list the opcode byte at all, by a fixed row or by a format with fields. -/
def listedIn (m : Mode) (b : Byte) : Bool :=
  match m with
  | .select => fixedIn .select b
  | .bbio => !bbUnlisted b
  | .i2c => !i2cUnlisted b
  | .ow => !owUnlisted b
  | .raw => !rawUnlisted b
  | .ccproxy => !ccUnlisted b
  | .shell => false

/-- The modes in the order of spec/opcode_table.json. -/
def tableModes : List Mode := [.select, .bbio, .i2c, .ow, .raw, .ccproxy]

/-- The context in which a number that names no mode is read (notes/assumptions/12.md). A row of the table means its
command only in its own mode (R127), and `nbits` and `w` do not say the mode: where `nbits` has room for a whole frame
it is the proxy's; otherwise it is the first mode of the table with a row that fixes all eight bits to this byte, else
the first that lists it, else `SELECT`. -/
def tableContext (nbits w : Nat) : Context :=
  let b := BitVec.ofNat 8 w
  if 32 ≤ nbits then ⟨.ccproxy, false⟩
  else
    match tableModes.find? (fixedIn · b) with
    | some m => ⟨m, m == .select && b != 0x00#8⟩
    | none =>
      match tableModes.find? (listedIn · b) with
      | some m => ⟨m, false⟩
      | none => ⟨.select, false⟩

/-- The command the decoder reads from a row's number. -/
def decodeTableWord (nbits w : Nat) : Option Instr :=
  match decode (tableContext nbits w) (tableBytes w) with
  | .ok (i, _) => some i
  | .error _ => none

end Sys2Proof
end

