-- ==== Sys2Proof/Config.lean ====
section
/-! DEFINITION. The parameters of the block (spec 00_scope.md R15): the numbers the spec fixes are plain definitions, the
parameters it leaves OPEN are opaque constants without a body, and so are the values the environment draws (R12, R59). -/

namespace Sys2Proof

/-- A GPIO id. The five logical roles name five distinct pins (R15, D1; notes/assumptions/3.md); every other GPIO of the
board is `gpio n`. -/
inductive PinId where
  /-- `PIN_AUX` -/
  | aux
  /-- `PIN_CLK`, the CLOCK role -/
  | clk
  /-- `PIN_MOSI`, the DATA-OUT role -/
  | mosi
  /-- `PIN_MISO`, the DATA-IN role -/
  | miso
  /-- `PIN_CS`, the CHIP-SELECT role -/
  | cs
  /-- any GPIO that has none of the five roles -/
  | gpio (n : Nat)
  deriving DecidableEq, Repr, Inhabited

namespace Config

/-! ### Parameters with a value (R15) -/

/-- `I2C_HALF_US`, the I2C half-cycle in microseconds (R15, D3). -/
def i2cHalfUs : Nat := 5

/-- `RAW_TIER_US[0..3]`, the raw half-bit delay of each speed tier (R15, R122). -/
def rawTierUs (tier : BitVec 2) : Nat :=
  match tier.toNat with
  | 0 => 100
  | 1 => 10
  | 2 => 5
  | _ => 1

/-- `OW_RECOVERY_US`, the reset recovery wait (R15, R204). -/
def owRecoveryUs : Nat := 410

/-- `DW_WAIT_ROUNDS`, the bound of the switch-to-read wait (R15, R326). -/
def dwWaitRounds : Nat := 255

/-- `DW_PULSES_PER_ROUND`, clock pulses of one wait round (R15, R326). -/
def dwPulsesPerRound : Nat := 8

/-- `ZERO_RUN`, consecutive 0x00 bytes that select bit-bang mode (R15, R392). -/
def zeroRun : Nat := 20

/-! ### Parameters the spec leaves OPEN (R15): no value is known to the model -/

/-- Which pins the debug-wire engine has. The three debug-wire pins are the images of three pins under an unknown
permutation: they are distinct (R15), and every three distinct pins are the images of some permutation, role pins included
(R82, D2; notes/assumptions/3.md). -/
opaque dwPinChoice : Equiv.Perm PinId

/-- `DW_RESET_PIN`; it may be any pin, a role pin included (R15, R82, D2). -/
def dwResetPin : PinId := dwPinChoice (.gpio 0)

/-- `DW_CLOCK_PIN` (R15, R82, D2). -/
def dwClockPin : PinId := dwPinChoice (.gpio 1)

/-- `DW_DATA_PIN` (R15, R82, D2). -/
def dwDataPin : PinId := dwPinChoice (.gpio 2)

/-- `DW_DEFAULT_TABLE`, the 16 bytes `dw.init` loads (R15, R48, D37). -/
opaque dwDefaultTable : Vector Byte 16

/-- `DW_CLK_HALF_US` (R15, D45). -/
opaque dwClkHalfUs : Nat

/-- `DW_RESET_LOW_US` (R15, D45). -/
opaque dwResetLowUs : Nat

/-- `DW_ENTER_PULSE_US` (R15, D45). -/
opaque dwEnterPulseUs : Nat

/-- `DW_RESET_RELEASE_US` (R15, D45). -/
opaque dwResetReleaseUs : Nat

/-- `DW_SAMPLE_WAIT_US` (R15, D45). -/
opaque dwSampleWaitUs : Nat

/-- `CHUNK_MAX` less one: R15 says only that `CHUNK_MAX` is at least 1. -/
opaque chunkMaxPred : Nat

/-- `CHUNK_MAX`, the largest transport chunk (R15, D35). -/
def chunkMax : Nat := chunkMaxPred + 1

/-- `RECV_TIMEOUT`, the argument of every `Recv` (R15, R394, D34). -/
opaque recvTimeout : Nat

/-- `CCP_BUF`, the capacity of the debug-proxy accumulation buffer (R15, D59). -/
def ccpBuf : Nat := chunkMax + 3

/-! ### Free values: what the environment answers and nothing constrains (R12, R59) -/

/-- The answer of draw number `n`, a line level or the direction of a pin nothing has configured, where the state's
script of draws does not say it (R12, R59; notes/assumptions/1.md). -/
opaque freeLevel : Nat → Bool

/-- The output latch of a pin nothing has written since reset (R59, R560). -/
opaque freeLatch : PinId → Bool

/-- The open-drain flag of a pin nothing has made an output since reset (R59, R560). -/
opaque freeOpenDrain : PinId → Bool

end Config
end Sys2Proof
end

