-- ==== Sys2Proof/Machine/State.lean ====
section
/-! DEFINITION. The state of the block (spec 10_state.md R30-R60), the environment the model tracks beside it (R59, R12), the
trace of events (20_memory.md R81), the reasons a step can stop, and the state after reset (70_reset_and_hazards.md R560). -/

namespace Sys2Proof.Machine

/-! ### Why a step can stop -/

/-- The faults of a step. The spec stops the block nowhere: it never halts (R541), no encoding traps, hangs or is undefined
(R131), and a `TransportFault` is a transfer of control to `SELECT`, a next state (R525). -/
inductive Fault where
  /-- Raised by `step` alone, where the state is one no rule of the spec describes: a command in progress (`S.pending`, or
  a search listing) that does not belong to the mode, or a bulk write with 0 or more than 16 bytes left (R35). Safe: no
  state that meets `State.Inv` has it, and every state a run reaches meets `State.Inv`. -/
  | noRule
  deriving DecidableEq, Repr

/-- The refusals of a step. -/
inductive Refusal where
  /-- Raised by an arm of `exec` for an instruction without a meaning; no arm raises it. Safe. -/
  | notModelled (mnemonic : String)
  deriving DecidableEq, Repr

/-! ### Framer state -/

/-- The sub-modes with a send-bytes command (R113). -/
inductive BulkMode where
  | i2c
  | ow
  | raw
  deriving DecidableEq, Repr, Inhabited

/-- `S.pending`, the command in progress when the framer waits for more input (R35). -/
inductive Pending where
  /-- no command is in progress -/
  | none
  /-- a send-bytes command with `k` payload bytes still to consume, 1 to 16 -/
  | bulk (m : BulkMode) (k : Nat)
  /-- a self-test waiting for its closing byte -/
  | selfTest
  /-- an instruction-table upload with `off` bytes received, 0 to 15 -/
  | upload (off : Fin 16)
  deriving DecidableEq, Repr, Inhabited

/-! ### Engine sessions -/

/-- The I2C engine's pins (R36); it holds nothing else (R37). -/
structure I2cSession where
  scl : PinId
  sda : PinId
  deriving DecidableEq, Repr

/-- `OW.search_command` (R41): one of two command bytes. -/
inductive SearchCommand where
  | romSearch
  | alarmSearch
  deriving DecidableEq, Repr, Inhabited

/-- The 1-Wire engine and enumerator (R38-R42). -/
structure OwSession where
  /-- `OW.pin` (R38) -/
  pin : PinId
  /-- `OW.last_device_flag` (R39) -/
  lastDeviceFlag : Bool
  /-- `OW.last_discrepancy`, 0..64 with 64 for "none" (R40) -/
  lastDiscrepancy : Nat
  /-- `OW.search_command` (R41) -/
  searchCommand : SearchCommand
  /-- `OW.rom[0..7]`; bit `k` of the vector is `RomBit(k) = OW.rom[k div 8][k mod 8]` (R42) -/
  rom : BitVec 64
  deriving DecidableEq, Repr

/-- `RAW.bit_order` (R43). -/
inductive BitOrder where
  | msbFirst
  | lsbFirst
  deriving DecidableEq, Repr, Inhabited

/-- `RAW.drive_mode` (R44). -/
inductive DriveMode where
  | openDrain
  | pushPull
  deriving DecidableEq, Repr, Inhabited

/-- `RAW.wire_count`, 2 or 3 (R45). -/
inductive WireCount where
  | two
  | three
  deriving DecidableEq, Repr, Inhabited

/-- The raw session (R43-R47). -/
structure RawSession where
  bitOrder : BitOrder
  driveMode : DriveMode
  wireCount : WireCount
  /-- `RAW.half_bit_delay_us`: 100, 10, 5 or 1 (R46) -/
  halfBitDelayUs : Nat
  deriving DecidableEq, Repr

/-- `DW.last_error` (R50). -/
inductive DwError where
  | none
  | notActive
  | notDebugging
  | notWired
  deriving DecidableEq, Repr, Inhabited

/-- The debug-wire session (R48-R54). -/
structure DwSession where
  /-- `DW.table[0..15]` (R48) -/
  table : Vector Byte 16
  resetPin : PinId
  clockPin : PinId
  dataPin : PinId
  /-- `DW.last_error` (R50) -/
  lastError : DwError
  /-- `DW.active` (R51) -/
  active : Bool
  /-- `DW.in_debug` (R52) -/
  inDebug : Bool
  deriving DecidableEq, Repr

/-! ### Interfaces: what the environment answers, and the engine port (R14) -/

/-- The result of a `Recv` (R14, R394). A chunk has at least one byte. -/
inductive RecvResult where
  | chunk (first : Byte) (rest : List Byte)
  | timeout
  | disconnect
  deriving DecidableEq, Repr

/-- The result of a `Send` (R14, R397): all bytes taken, fewer than all, or an error. -/
inductive SendResult where
  | sent
  | short
  | error
  deriving DecidableEq, Repr

/-- The operands of a table patch (R342): a byte sequence of at least `length` bytes, an offset and a length, each 0..255. -/
structure TablePatch where
  bytes : List Byte
  offset : Byte
  length : Byte
  enough : length.toNat ≤ bytes.length
  deriving DecidableEq, Repr

/-- A call of an engine operation through the engine port (R14, R416): the operations of 40_i2c.md to 43_debugwire.md. -/
inductive EngineCall where
  | i2cInit (clock data : PinId)
  | i2cStart
  | i2cStop
  | i2cWriteBit (b : Bool)
  | i2cReadBit
  | i2cReadByte
  | i2cWriteByte (v : Byte)
  | i2cPullupsOk
  | owInit (pin : PinId)
  | owWriteBit (b : Bool)
  | owReadBit
  | owReset (nowait : Bool)
  | owWriteByte (v : Byte)
  | owReadByte
  | crc8 (bytes : List Byte)
  | owFindFirst (cmd : SearchCommand)
  | owFindNext
  | rawInit
  | rawApplyConfig
  | rawStart
  | rawStop
  | rawCs (level : Bool)
  | rawTick
  | rawWriteBit (b : Bool)
  | rawReadBit
  | rawReadByte
  | rawWriteByte (v : Byte)
  | rawPeek
  | rawClock (level : Bool)
  | rawData (level : Bool)
  | dwInit (reset clock data : PinId)
  | dwEnter
  | dwHalt
  | dwResume
  | dwStep
  | dwReadConfig
  | dwWriteConfig (c : Byte)
  | dwChipErase
  | dwExec1 (a0 : Byte)
  | dwExec2 (a0 a1 : Byte)
  | dwExec3 (a0 a1 a2 : Byte)
  | dwGetChipId
  | dwGetPc
  | dwReadStatus
  | dwExit
  | dwUpdateTable (p : TablePatch)
  | dwInstrVersion
  | dwError
  deriving DecidableEq, Repr

/-- The return value of an engine operation (R14). -/
inductive EngineValue where
  | unit
  | bit (b : Bool)
  | byte (v : Byte)
  | half (v : Half)
  | error (e : DwError)
  deriving DecidableEq, Repr

/-- What the shell collaborator does next in `SHELL` mode (R416). -/
inductive ShellInput where
  | call (c : EngineCall)
  | exit
  deriving DecidableEq, Repr

/-- The events of the trace (R14, R81), each with the result the environment gave it. -/
inductive Event where
  | setInput (p : PinId)
  | setOutput (p : PinId) (openDrain : Bool)
  | getDir (p : PinId) (input : Bool)
  | set (p : PinId) (level : Bool)
  | get (p : PinId) (level : Bool)
  | delay (us : Nat)
  | guardBegin
  | guardEnd
  /-- the argument, `RECV_TIMEOUT` in every `Recv` of the block (R15, R394), and the result -/
  | recv (timeout : Nat) (r : RecvResult)
  | send (bytes : List Byte) (r : SendResult)
  | engineCall (c : EngineCall)
  | engineReturn (v : EngineValue)
  | toShell
  | shellExit
  deriving DecidableEq, Repr

/-- What the GPIO collaborator has been told of one pin since reset (R59): its direction (`true` for an input), its
open-drain flag and its output latch, each only where an event has set it. -/
structure PinSetting where
  input : Option Bool
  openDrain : Option Bool
  latch : Option Bool
  deriving DecidableEq, Repr, Inhabited

/-- The environment the model tracks (R12, R59): the pins, and the scripts of what the environment will answer. -/
structure Env where
  /-- the pins some event has configured, in rising order of `PinId.key` -/
  pins : List (PinId × PinSetting)
  /-- the answers of the draws, by draw number, as far as they are scripted -/
  levels : List Bool
  /-- the number of draws made so far -/
  drawn : Nat
  /-- the results of the coming `Recv`s -/
  rx : List RecvResult
  /-- the results of the coming `Send`s -/
  tx : List SendResult
  /-- what the shell collaborator will do -/
  port : List ShellInput
  deriving DecidableEq, Repr

/-! ### The state -/

/-- The state of the block, with the environment and the trace beside it. -/
structure State where
  /-- `S.mode` (R31) -/
  mode : Mode
  /-- `S.zero_run` (R32) -/
  zeroRun : Nat
  /-- `S.first_chunk` (R33) -/
  firstChunk : Bool
  /-- `S.inbuf`, the unconsumed suffix of the most recent chunk (R34) -/
  inbuf : List Byte
  /-- `S.pending` (R35) -/
  pending : Pending
  /-- the I2C engine (R36) -/
  i2c : I2cSession
  /-- the 1-Wire engine (R38-R42) -/
  ow : OwSession
  /-- the raw session (R43-R46) -/
  raw : RawSession
  /-- the debug-wire session (R48-R52) -/
  dw : DwSession
  /-- `CCP.acc` (R55) -/
  acc : List Byte
  /-- the model's own: a search listing (R220) has begun and its end record is not sent (notes/assumptions/6.md) -/
  listing : Bool
  /-- the model's own: the environment (R59) -/
  env : Env
  /-- the model's own: the events so far, the newest first (R81) -/
  trace : List Event
  deriving DecidableEq, Repr

/-- The raw fields' reset values (R43-R46). -/
def rawDefaults : RawSession :=
  { bitOrder := .msbFirst, driveMode := .openDrain, wireCount := .two, halfBitDelayUs := 100 }

/-- The state after block reset: the table of R60. No event is emitted, no pin has been configured and nothing has been
drawn or received (R560, R561). -/
def State.reset : State where
  mode := .select
  zeroRun := 0
  firstChunk := true
  inbuf := []
  pending := .none
  i2c := { scl := .clk, sda := .mosi }
  ow := { pin := .mosi, lastDeviceFlag := false, lastDiscrepancy := 64, searchCommand := .romSearch, rom := 0#64 }
  raw := rawDefaults
  dw :=
    { table := Config.dwDefaultTable
      resetPin := Config.dwResetPin
      clockPin := Config.dwClockPin
      dataPin := Config.dwDataPin
      lastError := .none
      active := false
      inDebug := false }
  acc := []
  listing := false
  env := { pins := [], levels := [], drawn := 0, rx := [], tx := [], port := [] }
  trace := []

end Sys2Proof.Machine
end

