-- ==== Sys2Proof/Machine/Ops.lean ====
section
/-! DEFINITION. The named operations over the state: the field updates, the pins the GPIO collaborator keeps (spec 10_state.md
R59), the events (00_scope.md R14), receive and send (44_bbio_framer.md R394, R397), the instruction table and the ROM buffer
(20_memory.md R84, R85), entry to `SELECT` (R390) and the one transfer of control the spec has, `TransportFault` handling
(60_exceptions.md R525). There is no return from it beside `SELECT` itself: no context is saved (R528). -/

namespace Sys2Proof

/-- A number for each pin, different for different pins: the order in which the tracked pins are kept. -/
def PinId.key : PinId → Nat
  | .aux => 0
  | .clk => 1
  | .mosi => 2
  | .miso => 3
  | .cs => 4
  | .gpio n => n + 5

end Sys2Proof

namespace Sys2Proof.Machine

/-! ### Field updates -/

/-- `S.mode <- m`. -/
def State.withMode (s : State) (m : Mode) : State := { s with mode := m }

/-- `S.zero_run <- n`. -/
def State.withZeroRun (s : State) (n : Nat) : State := { s with zeroRun := n }

/-- `S.first_chunk <- b`. -/
def State.withFirstChunk (s : State) (b : Bool) : State := { s with firstChunk := b }

/-- `S.inbuf <- bs`. -/
def State.withInbuf (s : State) (bs : List Byte) : State := { s with inbuf := bs }

/-- `S.pending <- p`. -/
def State.withPending (s : State) (p : Pending) : State := { s with pending := p }

/-- The I2C engine's fields. -/
def State.withI2c (s : State) (x : I2cSession) : State := { s with i2c := x }

/-- The 1-Wire engine's fields. -/
def State.withOw (s : State) (x : OwSession) : State := { s with ow := x }

/-- The raw session's fields. -/
def State.withRaw (s : State) (x : RawSession) : State := { s with raw := x }

/-- The debug-wire session's fields. -/
def State.withDw (s : State) (x : DwSession) : State := { s with dw := x }

/-- `CCP.acc <- bs`. -/
def State.withAcc (s : State) (bs : List Byte) : State := { s with acc := bs }

/-- Whether a search listing is under way. -/
def State.withListing (s : State) (b : Bool) : State := { s with listing := b }

/-! ### The pins the GPIO collaborator keeps (R59) -/

/-- What has been set of pin `p` since reset; a pin nothing has configured is unlisted. -/
def lookupPin (p : PinId) : List (PinId × PinSetting) → PinSetting
  | [] => { input := none, openDrain := none, latch := none }
  | (q, c) :: rest => if q = p then c else lookupPin p rest

/-- Change what is kept of pin `p`, keeping the list in rising order of `PinId.key`. -/
def updatePin (p : PinId) (f : PinSetting → PinSetting) : List (PinId × PinSetting) → List (PinId × PinSetting)
  | [] => [(p, f { input := none, openDrain := none, latch := none })]
  | (q, c) :: rest =>
    if q = p then (q, f c) :: rest
    else if p.key < q.key then (p, f { input := none, openDrain := none, latch := none }) :: (q, c) :: rest
    else (q, c) :: updatePin p f rest

/-- The effect of one event on the pins: `SetInput`, `SetOutput` and `Set` write the direction, the open-drain flag and
the latch (R59); no other event touches a pin. -/
def pinEffect (pins : List (PinId × PinSetting)) : Event → List (PinId × PinSetting)
  | .setInput p => updatePin p (fun c => { c with input := some true }) pins
  | .setOutput p od => updatePin p (fun c => { c with input := some false, openDrain := some od }) pins
  | .set p l => updatePin p (fun c => { c with latch := some l }) pins
  | .getDir _ _ | .get _ _ | .delay _ | .guardBegin | .guardEnd | .recv _ _ | .send _ _ | .engineCall _
  | .engineReturn _ | .toShell | .shellExit => pins

/-- The effect of a sequence of events on the pins, the first event first. -/
def pinEffects (pins : List (PinId × PinSetting)) (es : List Event) : List (PinId × PinSetting) :=
  es.foldl pinEffect pins

/-- The output latch of a pin: what was last set, else a free value (R59, R560). -/
def Env.latch (e : Env) (p : PinId) : Bool := (lookupPin p e.pins).latch.getD (Config.freeLatch p)

/-- The open-drain flag of a pin: what was last set, else a free value (R59, R560). -/
def Env.openDrain (e : Env) (p : PinId) : Bool := (lookupPin p e.pins).openDrain.getD (Config.freeOpenDrain p)

/-! ### Events (R14) -/

/-- The answer of draw number `n`: the script's, else a free value (R12). -/
def Env.draw (e : Env) (n : Nat) : Bool := e.levels.getD n (Config.freeLevel n)

/-- The state after the events `es`, the first first, of which `n` drew an answer: the one way in which the pins and the
count of draws change. -/
def State.after (s : State) (es : List Event) (n : Nat) : State :=
  { s with
    env := { s.env with pins := pinEffects s.env.pins es, drawn := s.env.drawn + n }
    trace := es.reverse ++ s.trace }

/-- Emit events that return nothing (R18). -/
def emit (es : List Event) (s : State) : State := s.after es 0

/-- `guarded { ... }` (R18). -/
def guarded (es : List Event) : List Event := [.guardBegin] ++ es ++ [.guardEnd]

/-- `Get(p)`: always a draw, whatever the pin's configuration (R59). -/
def getLevel (p : PinId) (s : State) : Bool × State :=
  let l := s.env.draw s.env.drawn
  (l, s.after [.get p l] 1)

/-- `GetDir(p)`: the tracked direction, or a draw when nothing has set it since reset (R59). -/
def getDir (p : PinId) (s : State) : Bool × State :=
  match (lookupPin p s.env.pins).input with
  | some d => (d, s.after [.getDir p d] 0)
  | none =>
    let d := s.env.draw s.env.drawn
    (d, s.after [.getDir p d] 1)

/-! ### Entry to `SELECT` and `TransportFault` -/

/-- Entry to `SELECT` (R390), with no input kept (R416, R529). -/
def enterSelect (s : State) : State :=
  { s with
    mode := .select, firstChunk := true, zeroRun := 0, pending := .none, inbuf := [], acc := [], listing := false }

/-- `TransportFault` handling (R525), one step: the rest of the command is abandoned, the raw fields are reset if the mode
is `RAW`, unconsumed input is dropped (R529) and the block is in `SELECT`. Nothing is sent, no pin is touched, and every
other field is kept. -/
def transportFault (s : State) : State :=
  enterSelect { s with raw := if s.mode = .raw then rawDefaults else s.raw }

/-! ### Receive and send -/

/-- `Recv`, with timeout `RECV_TIMEOUT` (R394): the next result the host's script holds, or `none` while the block waits with no input left (R541). -/
def receive (s : State) : Option (RecvResult × State) :=
  match s.env.rx with
  | [] => none
  | r :: rest => some (r, { s with env := { s.env with rx := rest }, trace := .recv Config.recvTimeout r :: s.trace })

/-- Whether a `Send` went through: an error or a count below the length does not (R397, R527). -/
def SendResult.accepted : SendResult → Bool
  | .sent => true
  | .short => false
  | .error => false

/-- The result of the next `Send`: the script's, else `Sent` (R527; notes/assumptions/2.md). -/
def Env.sendResult (e : Env) : SendResult := e.tx.headD .sent

/-- The event `Send(bs)`, with its result consumed from the script. -/
def emitSend (bs : List Byte) (s : State) : State :=
  { s with env := { s.env with tx := s.env.tx.tail }, trace := .send bs s.env.sendResult :: s.trace }

/-- `send(bs)` (R18, R527) and what the command does after it: on a failed `Send` the `TransportFault` is handled and the
rest of the command does not happen. -/
def sendThen (bs : List Byte) (k : State → State) (s : State) : State :=
  if s.env.sendResult.accepted then k (emitSend bs s) else transportFault (emitSend bs s)

/-- `send(bs)` as the last action of a command. -/
def reply (bs : List Byte) (s : State) : State := sendThen bs id s

/-! ### The stores: instruction table and ROM buffer (R84, R85) -/

/-- `Table[i]` (R84). -/
def State.tableByte (s : State) (i : Fin 16) : Byte := s.dw.table.get i

/-- `Table[offset + i] <- bytes[i]` for each byte of a patch (R342). -/
def patchTable (t : Vector Byte 16) (offset : Nat) : List Byte → Vector Byte 16
  | [] => t
  | b :: bs => patchTable (t.setIfInBounds offset b) (offset + 1) bs

/-- `RomBit(k)` (R42). -/
def romBit (rom : BitVec 64) (k : Nat) : Bool := rom.getLsbD k

/-- `RomBit(k) <- d` (R42, R212). -/
def setRomBit (rom : BitVec 64) (k : Nat) (d : Bool) : BitVec 64 :=
  if d then rom ||| (1#64 <<< k) else rom &&& ~~~(1#64 <<< k)

/-- `OW.rom[i]` (R42). -/
def romByte (rom : BitVec 64) (i : Nat) : Byte := rom.extractLsb' (8 * i) 8

/-- The ROM id as it is sent, `OW.rom[0]` first (R92). -/
def romBytes (rom : BitVec 64) : List Byte := (List.range 8).map (romByte rom)

end Sys2Proof.Machine
end

