-- ==== Sys2Proof/Machine/Operands.lean ====
section
/-! DEFINITION. Operand assembly (spec 30_encoding.md R121-R126), the pin roles and the shifting of bytes in either bit order
(20_memory.md R87-R90). -/

namespace Sys2Proof.Machine

/-! ### Bits and bytes -/

/-- `v[i] <- b` on a byte (R17). -/
def setByteBit (v : Byte) (i : Nat) (b : Bool) : Byte :=
  if b then v ||| (1#8 <<< i) else v &&& ~~~(1#8 <<< i)

/-- `zext_8(b)` of a bit (R17). -/
def bitByte (b : Bool) : Byte := if b then 0x01#8 else 0x00#8

/-- Bit indices most significant first. -/
def msbOrder : List Nat := [7, 6, 5, 4, 3, 2, 1, 0]

/-- Bit indices least significant first. -/
def lsbOrder : List Nat := [0, 1, 2, 3, 4, 5, 6, 7]

/-- The bit indices in the order `RAW.bit_order` gives (R270, R271). -/
def BitOrder.indices : BitOrder → List Nat
  | .msbFirst => msbOrder
  | .lsbFirst => lsbOrder

/-- Read one bit for each index, in order, into a byte: `v[i] <- read()`. -/
def readBits (read : State → Bool × State) : List Nat → Byte → State → Byte × State
  | [], v, s => (v, s)
  | i :: is, v, s =>
    let r := read s
    readBits read is (setByteBit v i r.1) r.2

/-- Write one bit of `v` for each index, in order. -/
def writeBits (write : Bool → State → State) (v : Byte) : List Nat → State → State
  | [], s => s
  | i :: is, s => writeBits write v is (write (v.getLsbD i) s)

/-- Write one bit of `v` for each index, in order, collecting the bit each write returns: `r[i] <- write(v[i])`. -/
def exchangeBits (write : Bool → State → Bool × State) (v : Byte) : List Nat → Byte → State → Byte × State
  | [], r, s => (r, s)
  | i :: is, r, s =>
    let x := write (v.getLsbD i) s
    exchangeBits write v is (setByteBit r i x.1) x.2

/-! ### Command operands -/

/-- The payload count of a `BULK` command, `op[3:0] + 1` (R121). -/
def bulkCount (n : BitVec 4) : Nat := n.toNat + 1

/-- `RAWCFG`'s three fields (R124); the half-bit delay is not part of them. -/
def rawConfigured (x : RawSession) (w wires order : Bool) : RawSession :=
  { x with
    driveMode := if w then .pushPull else .openDrain
    wireCount := if wires then .three else .two
    bitOrder := if order then .lsbFirst else .msbFirst }

/-- The five role pins in the order they are processed, each with its bit in an opcode and a reply (R125). -/
def bbioPins : List (PinId × Nat) := [(.aux, 4), (.mosi, 3), (.clk, 2), (.miso, 1), (.cs, 0)]

/-- The command byte of a search (R41). -/
def SearchCommand.byte : SearchCommand → Byte
  | .romSearch => 0xF0#8
  | .alarmSearch => 0xEC#8

/-! ### Announcements (R93, R410) -/

/-- `"BBIO1"` in ASCII. -/
def bbioName : List Byte := [0x42#8, 0x42#8, 0x49#8, 0x4F#8, 0x31#8]

/-- `"I2C1"` in ASCII. -/
def i2cName : List Byte := [0x49#8, 0x32#8, 0x43#8, 0x31#8]

/-- `"1W01"` in ASCII. -/
def owName : List Byte := [0x31#8, 0x57#8, 0x30#8, 0x31#8]

/-- `"RAW1"` in ASCII. -/
def rawName : List Byte := [0x52#8, 0x41#8, 0x57#8, 0x31#8]

/-! ### The instruction-table slots (R321) -/

/-- Slot 0, the table's version. -/
def slotVersion : Fin 16 := 0

/-- HALT. -/
def slotHalt : Fin 16 := 1

/-- RESUME. -/
def slotResume : Fin 16 := 2

/-- RD_CONFIG. -/
def slotRdConfig : Fin 16 := 3

/-- WR_CONFIG. -/
def slotWrConfig : Fin 16 := 4

/-- DEBUG_INSTR_1. -/
def slotInstr1 : Fin 16 := 5

/-- DEBUG_INSTR_2. -/
def slotInstr2 : Fin 16 := 6

/-- DEBUG_INSTR_3. -/
def slotInstr3 : Fin 16 := 7

/-- GET_CHIP_ID. -/
def slotChipId : Fin 16 := 8

/-- GET_PC. -/
def slotPc : Fin 16 := 9

/-- READ_STATUS. -/
def slotStatus : Fin 16 := 10

/-- STEP_INSTR. -/
def slotStep : Fin 16 := 11

/-- CHIP_ERASE. -/
def slotErase : Fin 16 := 12

end Sys2Proof.Machine
end

