-- ==== Sys2Proof/Machine/Flags.lean ====
section
/-! DEFINITION. The flags and condition outcomes (spec 10_state.md R57: there is no condition-code register): the debug-wire
session state and its check (R53, 43_debugwire.md R324), the error codes (R50), the response frames of the debug proxy
(45_ccproxy.md R462, R463) and the status bytes of the bit-bang modes (30_encoding.md R120). -/

namespace Sys2Proof.Machine

/-! ### Bit-bang status bytes (R120) -/

/-- The ok byte. -/
def okByte : List Byte := [0x01#8]

/-- The error byte of an unknown opcode (R415). -/
def errorByte : List Byte := [0x00#8]

/-! ### The debug-wire flags -/

/-- The numeric code of an error (R50, R524). -/
def DwError.code : DwError → Byte
  | .none => 0
  | .notActive => 1
  | .notDebugging => 2
  | .notWired => 3

/-- The session states the source names (R53). -/
inductive DwPhase where
  | inactive
  | active
  | inDebug
  deriving DecidableEq, Repr

/-- The session state, derived from the two bits (R53). -/
def DwSession.phase (d : DwSession) : DwPhase :=
  if d.active = false then .inactive else if d.inDebug = false then .active else .inDebug

/-- `DW.last_error <- e`. -/
def latchError (e : DwError) (s : State) : State := s.withDw { s.dw with lastError := e }

/-- `check()` (R324): `NOT_ACTIVE` before `NOT_DEBUGGING`; a passing check changes nothing. -/
def dwCheck (s : State) : Bool × State :=
  if s.dw.active = false then (false, latchError .notActive s)
  else if s.dw.inDebug = false then (false, latchError .notDebugging s)
  else (true, s)

/-! ### Debug-proxy responses (R462) -/

/-- `ok0`. -/
def ok0 : List Byte := [0x01#8, 0x00#8, 0x00#8]

/-- `ok8(r)`. -/
def ok8 (r : Byte) : List Byte := [0x01#8, r, 0x00#8]

/-- `ok16(v)`: low byte first. -/
def ok16 (v : Half) : List Byte := [0x01#8, v.extractLsb' 0 8, v.extractLsb' 8 8]

/-- `err(e)`. -/
def errFrame (e : Byte) : List Byte := [0x02#8, e, 0x00#8]

/-- `ready`. -/
def readyFrame : List Byte := [0x03#8, 0x00#8, 0x00#8]

/-- `reply(x, width)` (R463): the latched error if there is one, else the success frame. -/
def proxyReply (success : List Byte) (s : State) : State :=
  reply (if s.dw.lastError = .none then success else errFrame s.dw.lastError.code) s

end Sys2Proof.Machine
end

