-- ==== Sys2Proof/Machine/SubMode.lean ====
section
/-! DEFINITION. The procedures the bit-bang modes share (spec 44_bbio_framer.md part 5, R410-R415): announcing a mode, leaving
a sub-mode, beginning a bulk write, configuring AUX and CS, and answering an unknown opcode. -/

namespace Sys2Proof.Machine

/-- `sub_mode_exit()` (R411): the raw fields are reset if the mode is `RAW`, the mode becomes `BBIO` and `"BBIO1"` is sent;
no pin is changed and the rest of the chunk is kept. -/
def subModeExit (s : State) : State :=
  reply bbioName ((s.withRaw (if s.mode = .raw then rawDefaults else s.raw)).withMode .bbio)

/-- The beginning of `bulk_write(count, f)` (R412): the command's ok byte, before any payload byte is consumed; then the
command waits for its first payload byte (`bulkByte` of Framer.lean goes on). -/
def bulkStart (m : BulkMode) (n : BitVec 4) (s : State) : State :=
  sendThen okByte (fun t => t.withPending (.bulk m (bulkCount n))) s

/-- The events of `periph(op)` (R413): AUX takes `op[1]`, CS takes `op[0]`, each as a push-pull output. -/
def periphEvents (y z : Bool) : List Event :=
  [.setOutput .aux false, .set .aux y, .setOutput .cs false, .set .cs z]

/-- `periph(op); send([0x01])` (R413). -/
def periph (y z : Bool) (s : State) : State := reply okByte (emit (periphEvents y z) s)

/-- The response to an unknown opcode of a bit-bang mode (R415). -/
def unknownOpcode (s : State) : State := reply errorByte s

end Sys2Proof.Machine
end

