-- ==== Sys2Proof/Machine/I2c.lean ====
section
/-! DEFINITION. The I2C engine (spec 40_i2c.md R150-R160) and the commands of I2C mode (R165-R175). -/

namespace Sys2Proof.Machine

/-! ### Engine operations -/

/-- `i2c.init(clock_pin, data_pin)` (R150): both lines open-drain and released. -/
def i2cInit (clock data : PinId) (s : State) : State :=
  emit [.setOutput clock true, .setOutput data true, .set clock true, .set data true]
    (s.withI2c { scl := clock, sda := data })

/-- The events of `i2c.start()` (R152): SDA falls while SCL is high, then SCL falls, in one guard. -/
def i2cStartEvents (x : I2cSession) : List Event :=
  [.set x.sda true, .delay Config.i2cHalfUs, .set x.scl true, .delay Config.i2cHalfUs]
    ++ guarded [.set x.sda false, .delay Config.i2cHalfUs, .set x.scl false]
    ++ [.delay Config.i2cHalfUs]

/-- `i2c.start()` (R152). -/
def i2cStart (s : State) : State := emit (i2cStartEvents s.i2c) s

/-- The events of `i2c.stop()` (R153): SCL rises, then SDA rises, in one guard. -/
def i2cStopEvents (x : I2cSession) : List Event :=
  [.set x.sda false, .delay Config.i2cHalfUs]
    ++ guarded [.set x.scl true, .delay Config.i2cHalfUs, .set x.sda true]
    ++ [.delay Config.i2cHalfUs]

/-- `i2c.stop()` (R153). -/
def i2cStop (s : State) : State := emit (i2cStopEvents s.i2c) s

/-- The events of `i2c.write_bit(b)` (R154). -/
def i2cWriteBitEvents (x : I2cSession) (b : Bool) : List Event :=
  [.set x.sda b, .delay Config.i2cHalfUs, .set x.scl true, .delay Config.i2cHalfUs, .set x.scl false]

/-- `i2c.write_bit(b)` (R154). -/
def i2cWriteBit (b : Bool) (s : State) : State := emit (i2cWriteBitEvents s.i2c b) s

/-- `i2c.read_bit() -> b` (R155): SDA is released and sampled while SCL is high. -/
def i2cReadBit (s : State) : Bool × State :=
  let r := getLevel s.i2c.sda
    (emit [.set s.i2c.sda true, .delay Config.i2cHalfUs, .set s.i2c.scl true, .delay Config.i2cHalfUs] s)
  (r.1, emit [.set s.i2c.scl false] r.2)

/-- `i2c.read_byte() -> v` (R156), most significant bit first; no acknowledge bit is sent. -/
def i2cReadByte (s : State) : Byte × State := readBits i2cReadBit msbOrder 0#8 s

/-- `i2c.write_byte(v) -> nack` (R157), most significant bit first, then the acknowledge bit. -/
def i2cWriteByte (v : Byte) (s : State) : Bool × State := i2cReadBit (writeBits i2cWriteBit v msbOrder s)

/-- `i2c.pullups_ok() -> ok` (R158); reached only through the engine port (D64). -/
def i2cPullupsOk (s : State) : Bool × State :=
  let a := getLevel s.i2c.scl
    (emit [.setOutput s.i2c.scl true, .setOutput s.i2c.sda true, .set s.i2c.scl true, .set s.i2c.sda true,
      .delay Config.i2cHalfUs] s)
  let b := getLevel s.i2c.sda a.2
  (a.1 && b.1, b.2)

/-! ### Commands of I2C mode -/

/-- `I2C.EXIT` (R165): no stop condition is sent. -/
def execI2cExit (s : State) : Host.Outcome State Fault Refusal := .next (subModeExit s)

/-- `I2C.VERSION` (R166). -/
def execI2cVersion (s : State) : Host.Outcome State Fault Refusal := .next (reply i2cName s)

/-- `I2C.START` (R167). -/
def execI2cStart (s : State) : Host.Outcome State Fault Refusal := .next (reply okByte (i2cStart s))

/-- `I2C.STOP` (R168). -/
def execI2cStop (s : State) : Host.Outcome State Fault Refusal := .next (reply okByte (i2cStop s))

/-- `I2C.READ` (R169): the reply is the byte read. -/
def execI2cRead (s : State) : Host.Outcome State Fault Refusal :=
  let r := i2cReadByte s
  .next (reply [r.1] r.2)

/-- `I2C.ACK` (R170): one bit at the low level. -/
def execI2cAck (s : State) : Host.Outcome State Fault Refusal := .next (reply okByte (i2cWriteBit false s))

/-- `I2C.NACK` (R171): one bit at the high level. -/
def execI2cNack (s : State) : Host.Outcome State Fault Refusal := .next (reply okByte (i2cWriteBit true s))

/-- `I2C.WRITE` (R172): the ok byte; each payload byte then answers its nack bit (`bulkUnit`). -/
def execI2cWrite (n : BitVec 4) (s : State) : Host.Outcome State Fault Refusal := .next (bulkStart .i2c n s)

/-- `I2C.PERIPH` (R173). -/
def execI2cPeriph (y z : Bool) (s : State) : Host.Outcome State Fault Refusal := .next (periph y z s)

/-- `I2C.SPEED` (R174): answered, without effect; the half-cycle is fixed (90_conflicts.md C6). -/
def execI2cSpeed (s : State) : Host.Outcome State Fault Refusal := .next (reply okByte s)

/-- `I2C.UNKNOWN` (R175). -/
def execI2cUnknown (s : State) : Host.Outcome State Fault Refusal := .next (unknownOpcode s)

end Sys2Proof.Machine
end

