-- ==== Sys2Proof/Machine/OneWire.lean ====
section
/-! DEFINITION. The 1-Wire engine (spec 41_onewire.md R200-R207), CRC-8 (R208), the enumerator (R210-R216) and the commands of
1-Wire mode (R220-R238). -/

namespace Sys2Proof.Machine

/-! ### Engine operations -/

/-- `ow.init(pin)` (R200): the line open-drain and released. -/
def owInit (pin : PinId) (s : State) : State :=
  emit [.setOutput pin true, .set pin true] (s.withOw { s.ow with pin := pin })

/-- The events of `ow.write_bit(b)` (R201, R202): a 70 microsecond slot. -/
def owWriteBitEvents (p : PinId) (b : Bool) : List Event :=
  if b then [.set p false, .delay 6, .set p true, .delay 64] else [.set p false, .delay 60, .set p true, .delay 10]

/-- `ow.write_bit(b)` (R201, R202). -/
def owWriteBit (b : Bool) (s : State) : State := emit (owWriteBitEvents s.ow.pin b) s

/-- `ow.read_bit() -> b` (R203). -/
def owReadBit (s : State) : Bool × State :=
  let r := getLevel s.ow.pin (emit [.set s.ow.pin false, .delay 6, .set s.ow.pin true, .delay 9] s)
  (r.1, emit [.delay 55] r.2)

/-- `ow.reset(nowait) -> present` (R204): a device answers by pulling the line low. -/
def owReset (nowait : Bool) (s : State) : Bool × State :=
  let r := getLevel s.ow.pin (emit [.set s.ow.pin false, .delay 480, .set s.ow.pin true, .delay 70] s)
  (!r.1, if nowait then r.2 else emit [.delay Config.owRecoveryUs] r.2)

/-- `ow.write_byte(v)` (R205), least significant bit first. -/
def owWriteByte (v : Byte) (s : State) : State := writeBits owWriteBit v lsbOrder s

/-- `ow.read_byte() -> v` (R206), least significant bit first. -/
def owReadByte (s : State) : Byte × State := readBits owReadBit lsbOrder 0#8 s

/-! ### CRC-8 -/

/-- One bit of the CRC loop (R208): the register and the byte being consumed, both shifted right. -/
def crcBit (cb : Byte × Byte) : Byte × Byte :=
  let mix := (cb.1 ^^^ cb.2).getLsbD 0
  let c := cb.1 >>> 1
  (if mix then c ^^^ 0x8C#8 else c, cb.2 >>> 1)

/-- Eight bits of the CRC loop. -/
def crcByte (c b : Byte) : Byte :=
  (crcBit (crcBit (crcBit (crcBit (crcBit (crcBit (crcBit (crcBit (c, b))))))))).1

/-- `crc8(bytes) -> c` (R208): polynomial 0x8C, least significant bit first. No command calls it (R209). -/
def crc8 (bytes : List Byte) : Byte := bytes.foldl crcByte 0#8

/-! ### The enumerator -/

/-- The direction taken at bit position `k` for the id bit `b` and its complement `c` (R212): the only possible one, or at
a discrepancy 1 at the last pass's discrepancy, below it the way the last pass went, above it 0. -/
def searchDirection (k lastDiscrepancy : Nat) (b c stored : Bool) : Bool :=
  if b != c then b
  else if k = lastDiscrepancy then true
  else if k < lastDiscrepancy then stored
  else false

/-- `last_zero` after position `k` (R212): recorded at every 0-choice at a discrepancy (90_conflicts.md C11). -/
def searchLastZero (k lastZero : Nat) (b c d : Bool) : Nat :=
  if b == c && !d then k else lastZero

/-- The bit positions `k`, `k + 1`, … of a search pass, `n` of them (R211, R212): `none` where no device responded, with the
bits already written kept (R215), else the final `last_zero`. -/
def searchBits : Nat → Nat → Nat → State → Option Nat × State
  | 0, _, lastZero, s => (some lastZero, s)
  | n + 1, k, lastZero, s =>
    let b := owReadBit s
    let c := owReadBit b.2
    if b.1 && c.1 then (none, c.2)
    else
      let d := searchDirection k s.ow.lastDiscrepancy b.1 c.1 (romBit s.ow.rom k)
      let t := c.2.withOw { c.2.ow with rom := setRomBit c.2.ow.rom k d }
      searchBits n (k + 1) (searchLastZero k lastZero b.1 c.1 d) (owWriteBit d t)

/-- `finish()` (R213). -/
def searchFinish (lastZero : Nat) (s : State) : State :=
  s.withOw { s.ow with
    lastDiscrepancy := lastZero
    lastDeviceFlag := if lastZero = 64 then true else s.ow.lastDeviceFlag }

/-- `search_pass() -> found` (R211): an exhausted search has no bus activity; an empty bus ends after the reset. -/
def searchPass (s : State) : Bool × State :=
  if s.ow.lastDeviceFlag then (false, s)
  else
    let r := owReset true s
    if r.1 = false then (false, r.2)
    else
      let p := searchBits 64 0 64 (owWriteByte r.2.ow.searchCommand.byte r.2)
      match p.1 with
      | none => (false, p.2)
      | some lastZero => (true, searchFinish lastZero p.2)

/-- `ow.find_first(cmd) -> found` (R210). -/
def owFindFirst (cmd : SearchCommand) (s : State) : Bool × State :=
  searchPass (s.withOw { s.ow with
    rom := 0#64, lastDiscrepancy := 64, lastDeviceFlag := false, searchCommand := cmd })

/-- `ow.find_next() -> found` (R214). -/
def owFindNext (s : State) : Bool × State := searchPass s

/-! ### The search listing (R220) -/

/-- The record that ends a listing. -/
def searchSentinel : List Byte := List.replicate 8 0xFF#8

/-- What a listing does with the result of a pass: it sends the id found and goes on, or sends the end record. -/
def listRecord (r : Bool × State) : State :=
  if r.1 then sendThen (romBytes r.2.ow.rom) (fun t => t.withListing true) r.2
  else reply searchSentinel (r.2.withListing false)

/-- The beginning of `search_list(cmd)`: the first pass and its record. No status byte precedes it. -/
def searchListStart (cmd : SearchCommand) (s : State) : State := listRecord (owFindFirst cmd s)

/-- One further turn of the loop of `search_list(cmd)`; the loop is not bounded (R217). -/
def searchListNext (s : State) : State := listRecord (owFindNext s)

/-! ### Commands of 1-Wire mode -/

/-- `OW.EXIT` (R230): the search state survives. -/
def execOwExit (s : State) : Host.Outcome State Fault Refusal := .next (subModeExit s)

/-- `OW.VERSION` (R231). -/
def execOwVersion (s : State) : Host.Outcome State Fault Refusal := .next (reply owName s)

/-- `OW.RESET` (R232): the presence bit is discarded. -/
def execOwReset (s : State) : Host.Outcome State Fault Refusal := .next (reply okByte (owReset false s).2)

/-- `OW.READ` (R233). -/
def execOwRead (s : State) : Host.Outcome State Fault Refusal :=
  let r := owReadByte s
  .next (reply [r.1] r.2)

/-- `OW.SEARCH_ROM` (R234): the listing's first record; `searchListNext` goes on. -/
def execOwSearchRom (s : State) : Host.Outcome State Fault Refusal := .next (searchListStart .romSearch s)

/-- `OW.SEARCH_ALARM` (R235). -/
def execOwSearchAlarm (s : State) : Host.Outcome State Fault Refusal := .next (searchListStart .alarmSearch s)

/-- `OW.WRITE` (R236): the ok byte; each payload byte is then echoed (`bulkUnit`). -/
def execOwWrite (n : BitVec 4) (s : State) : Host.Outcome State Fault Refusal := .next (bulkStart .ow n s)

/-- `OW.PERIPH` (R237). -/
def execOwPeriph (y z : Bool) (s : State) : Host.Outcome State Fault Refusal := .next (periph y z s)

/-- `OW.UNKNOWN` (R238). -/
def execOwUnknown (s : State) : Host.Outcome State Fault Refusal := .next (unknownOpcode s)

end Sys2Proof.Machine
end

