-- ==== Sys2Proof/Machine/RawWire.lean ====
section
/-! DEFINITION. The raw-wire engine (spec 42_rawwire.md R260-R274) and the commands of raw mode (R280-R298). -/

namespace Sys2Proof.Machine

/-! ### Engine operations -/

/-- The open-drain flag of every `SetOutput` of the raw engine (R44). -/
def RawSession.openDrainFlag (x : RawSession) : Bool := x.driveMode == .openDrain

/-- The events of `raw.apply_config()` (R261): directions and idle levels; in 2-wire mode `DIN` is not touched. -/
def rawConfigEvents (x : RawSession) : List Event :=
  [.setOutput .clk x.openDrainFlag, .set .clk false,
    .setOutput .cs x.openDrainFlag, .set .cs true,
    .setOutput .mosi x.openDrainFlag, .set .mosi false]
    ++ (if x.wireCount = .three then [.setInput .miso] else [])

/-- `raw.apply_config()` (R261). -/
def rawApplyConfig (s : State) : State := emit (rawConfigEvents s.raw) s

/-- `raw.init()` (R260). -/
def rawInit (s : State) : State := rawApplyConfig (s.withRaw rawDefaults)

/-- The events of `drive_data(l)` (R262): in 2-wire mode the shared line is made an output again. -/
def driveDataEvents (x : RawSession) (l : Bool) : List Event :=
  (if x.wireCount = .two then [.setOutput .mosi x.openDrainFlag] else []) ++ [.set .mosi l]

/-- The events of `release_data()` (R262): in 3-wire mode there are none. -/
def releaseDataEvents (x : RawSession) : List Event :=
  if x.wireCount = .two then [.setInput .mosi] else []

/-- `in_pin` (R263). -/
def RawSession.inPin (x : RawSession) : PinId := if x.wireCount = .three then .miso else .mosi

/-- The events of `raw.start()` (R264), unguarded. -/
def rawStartEvents (x : RawSession) : List Event :=
  driveDataEvents x true ++ [.delay x.halfBitDelayUs, .set .clk true, .delay x.halfBitDelayUs]
    ++ driveDataEvents x false ++ [.delay x.halfBitDelayUs, .set .clk false, .delay x.halfBitDelayUs]

/-- `raw.start()` (R264). -/
def rawStart (s : State) : State := emit (rawStartEvents s.raw) s

/-- The events of `raw.stop()` (R265): the clock is left high. -/
def rawStopEvents (x : RawSession) : List Event :=
  driveDataEvents x false ++ [.delay x.halfBitDelayUs, .set .clk true, .delay x.halfBitDelayUs]
    ++ driveDataEvents x true ++ [.delay x.halfBitDelayUs]

/-- `raw.stop()` (R265). -/
def rawStop (s : State) : State := emit (rawStopEvents s.raw) s

/-- `raw.cs(l)` (R266). -/
def rawCs (l : Bool) (s : State) : State := emit [.set .cs l] s

/-- `raw.tick()` (R267). -/
def rawTick (s : State) : State :=
  emit [.set .clk true, .delay s.raw.halfBitDelayUs, .set .clk false, .delay s.raw.halfBitDelayUs] s

/-- `raw.write_bit(b) -> r` (R268): in 3-wire mode `DIN` is sampled while the clock is high, in 2-wire mode nothing is. -/
def rawWriteBit (b : Bool) (s : State) : Bool × State :=
  let t := emit (driveDataEvents s.raw b ++ [.delay s.raw.halfBitDelayUs, .set .clk true, .delay s.raw.halfBitDelayUs]) s
  let r := if s.raw.wireCount = .three then getLevel .miso t else (false, t)
  (r.1, emit [.set .clk false] r.2)

/-- `raw.read_bit() -> b` (R269). -/
def rawReadBit (s : State) : Bool × State :=
  let t := emit (releaseDataEvents s.raw ++ [.delay s.raw.halfBitDelayUs, .set .clk true, .delay s.raw.halfBitDelayUs]) s
  let r := getLevel s.raw.inPin t
  (r.1, emit [.set .clk false] r.2)

/-- `raw.read_byte() -> v` (R270), in the configured bit order. -/
def rawReadByte (s : State) : Byte × State := readBits rawReadBit s.raw.bitOrder.indices 0#8 s

/-- `raw.write_byte(v) -> r` (R271): the byte sampled, or 0x01 in 2-wire mode. -/
def rawWriteByte (v : Byte) (s : State) : Byte × State :=
  let r := exchangeBits rawWriteBit v s.raw.bitOrder.indices 0#8 s
  (if s.raw.wireCount = .two then 0x01#8 else r.1, r.2)

/-- `raw.peek() -> b` (R272). -/
def rawPeek (s : State) : Bool × State := getLevel s.raw.inPin s

/-- `raw.clock(l)` (R273). -/
def rawClock (l : Bool) (s : State) : State := emit [.set .clk l] s

/-- `raw.data(l)` (R273). -/
def rawData (l : Bool) (s : State) : State := emit (driveDataEvents s.raw l) s

/-! ### Commands of raw mode -/

/-- `RAW.EXIT` (R280): the raw fields are reset, no pin changes. -/
def execRawExit (s : State) : Host.Outcome State Fault Refusal := .next (subModeExit s)

/-- `RAW.VERSION` (R281). -/
def execRawVersion (s : State) : Host.Outcome State Fault Refusal := .next (reply rawName s)

/-- `RAW.START` (R282). -/
def execRawStart (s : State) : Host.Outcome State Fault Refusal := .next (reply okByte (rawStart s))

/-- `RAW.STOP` (R283). -/
def execRawStop (s : State) : Host.Outcome State Fault Refusal := .next (reply okByte (rawStop s))

/-- `RAW.CS_LOW` (R284). -/
def execRawCsLow (s : State) : Host.Outcome State Fault Refusal := .next (reply okByte (rawCs false s))

/-- `RAW.CS_HIGH` (R285). -/
def execRawCsHigh (s : State) : Host.Outcome State Fault Refusal := .next (reply okByte (rawCs true s))

/-- `RAW.READ_BYTE` (R286). -/
def execRawReadByte (s : State) : Host.Outcome State Fault Refusal :=
  let r := rawReadByte s
  .next (reply [r.1] r.2)

/-- `RAW.READ_BIT` (R287): a 0x00 here is data. -/
def execRawReadBit (s : State) : Host.Outcome State Fault Refusal :=
  let r := rawReadBit s
  .next (reply [bitByte r.1] r.2)

/-- `RAW.PEEK` (R288). -/
def execRawPeek (s : State) : Host.Outcome State Fault Refusal :=
  let r := rawPeek s
  .next (reply [bitByte r.1] r.2)

/-- `RAW.TICK` (R289). -/
def execRawTick (s : State) : Host.Outcome State Fault Refusal := .next (reply okByte (rawTick s))

/-- `RAW.CLK_LOW` (R290). -/
def execRawClkLow (s : State) : Host.Outcome State Fault Refusal := .next (reply okByte (rawClock false s))

/-- `RAW.CLK_HIGH` (R291). -/
def execRawClkHigh (s : State) : Host.Outcome State Fault Refusal := .next (reply okByte (rawClock true s))

/-- `RAW.DAT_LOW` (R292). -/
def execRawDatLow (s : State) : Host.Outcome State Fault Refusal := .next (reply okByte (rawData false s))

/-- `RAW.DAT_HIGH` (R293). -/
def execRawDatHigh (s : State) : Host.Outcome State Fault Refusal := .next (reply okByte (rawData true s))

/-- `RAW.WRITE` (R294): the ok byte; each payload byte then answers what `raw.write_byte` returns (`bulkUnit`). -/
def execRawWrite (n : BitVec 4) (s : State) : Host.Outcome State Fault Refusal := .next (bulkStart .raw n s)

/-- `RAW.PERIPH` (R295): CS becomes push-pull until the next configuration. -/
def execRawPeriph (y z : Bool) (s : State) : Host.Outcome State Fault Refusal := .next (periph y z s)

/-- `RAW.SPEED` (R296): no pin events. -/
def execRawSpeed (tier : BitVec 2) (s : State) : Host.Outcome State Fault Refusal :=
  .next (reply okByte (s.withRaw { s.raw with halfBitDelayUs := Config.rawTierUs tier }))

/-- `RAW.CONFIG` (R297): the three fields, then the configuration is applied; the speed is unchanged. -/
def execRawConfig (w x y : Bool) (s : State) : Host.Outcome State Fault Refusal :=
  .next (reply okByte (rawApplyConfig (s.withRaw (rawConfigured s.raw w x y))))

/-- `RAW.UNKNOWN` (R298). -/
def execRawUnknown (s : State) : Host.Outcome State Fault Refusal := .next (unknownOpcode s)

end Sys2Proof.Machine
end

