-- ==== Sys2Proof/Machine/Bbio.lean ====
section
/-! DEFINITION. The commands of the BBIO dispatcher (spec 44_bbio_framer.md R399-R409). -/

namespace Sys2Proof.Machine

/-! ### The pin commands' loops (R407, R408) -/

/-- The events that give each listed pin the direction its bit says: 1 is an input, 0 a push-pull output (R407, D26). -/
def pinDirEvents (op : Byte) (pins : List (PinId × Nat)) : List Event :=
  pins.map fun pk => if op.getLsbD pk.2 then .setInput pk.1 else .setOutput pk.1 false

/-- `r[k] <- 1` for each listed pin that `GetDir` says is an input (R407). -/
def readDirs : List (PinId × Nat) → Byte → State → Byte × State
  | [], r, s => (r, s)
  | pk :: rest, r, s =>
    let x := getDir pk.1 s
    readDirs rest (if x.1 then setByteBit r pk.2 true else r) x.2

/-- The events that write each listed pin's latch (R408). -/
def pinSetEvents (op : Byte) (pins : List (PinId × Nat)) : List Event :=
  pins.map fun pk => .set pk.1 (op.getLsbD pk.2)

/-- `r[k] <- Get(p)` for each listed pin (R408). -/
def readLevels : List (PinId × Nat) → Byte → State → Byte × State
  | [], r, s => (r, s)
  | pk :: rest, r, s =>
    let x := getLevel pk.1 s
    readLevels rest (setByteBit r pk.2 x.1) x.2

/-- The five pin bits of an opcode, AUX at bit 4 to CS at bit 0 (R125). -/
def pinBits (a o d m c : Bool) : Byte :=
  0b000#3 ++ BitVec.ofBool a ++ BitVec.ofBool o ++ BitVec.ofBool d ++ BitVec.ofBool m ++ BitVec.ofBool c

/-! ### The self-test (R405, R406) -/

/-- The self-test's error count, always 0; the command then waits for its closing byte (`selfTestClose`). -/
def selfTestStart (s : State) : State := sendThen [0x00#8] (fun t => t.withPending .selfTest) s

/-- The closing byte, whatever its value, ends the self-test. -/
def selfTestClose (s : State) : State := reply [0x01#8] (s.withPending .none)

/-! ### Commands -/

/-- `BB.RESET` (R399): no pin or engine state changes. -/
def execBbReset (s : State) : Host.Outcome State Fault Refusal := .next (reply bbioName s)

/-- `BB.VERSION` (R400). -/
def execBbVersion (s : State) : Host.Outcome State Fault Refusal := .next (reply bbioName s)

/-- `BB.I2C` (R401): the engine init runs before the announcement (D30). -/
def execBbI2c (s : State) : Host.Outcome State Fault Refusal :=
  .next (reply i2cName ((i2cInit .clk .mosi s).withMode .i2c))

/-- `BB.OW` (R402): the search state is kept. -/
def execBbOw (s : State) : Host.Outcome State Fault Refusal :=
  .next (reply owName ((owInit .mosi s).withMode .ow))

/-- `BB.RAW` (R403). -/
def execBbRaw (s : State) : Host.Outcome State Fault Refusal :=
  .next (reply rawName ((rawInit s).withMode .raw))

/-- `BB.SHELL` (R404): the rest of the chunk is discarded. -/
def execBbShell (s : State) : Host.Outcome State Fault Refusal :=
  .next (sendThen okByte (fun t => emit [.toShell] ((t.withInbuf []).withMode .shell)) s)

/-- `BB.SELFTEST` (R405). -/
def execBbSelftest (s : State) : Host.Outcome State Fault Refusal := .next (selfTestStart s)

/-- `BB.SELFTEST_LONG` (R406): the same exchange. -/
def execBbSelftestLong (s : State) : Host.Outcome State Fault Refusal := .next (selfTestStart s)

/-- `BB.PINDIR` (R407): the reply is 0x40 with the directions read back. -/
def execBbPindir (a o d m c : Bool) (s : State) : Host.Outcome State Fault Refusal :=
  let r := readDirs bbioPins 0x40#8 (emit (pinDirEvents (pinBits a o d m c) bbioPins) s)
  .next (reply [r.1] r.2)

/-- `BB.PINSET` (R408): the reply is 0x80 with the line levels read after all five writes. -/
def execBbPinset (a o d m c : Bool) (s : State) : Host.Outcome State Fault Refusal :=
  let r := readLevels bbioPins 0x80#8 (emit (pinSetEvents (pinBits a o d m c) bbioPins) s)
  .next (reply [r.1] r.2)

/-- `BB.UNKNOWN` (R409). -/
def execBbUnknown (s : State) : Host.Outcome State Fault Refusal := .next (unknownOpcode s)

end Sys2Proof.Machine
end

