-- ==== Sys2Proof/Machine/DebugWire.lean ====
section
/-! DEFINITION. The debug-wire engine (spec 43_debugwire.md R320-R345): session operations, wire primitives, debug operations
and table access. -/

namespace Sys2Proof.Machine

/-! ### Session operations -/

/-- `dw.init(reset_pin, clock_pin, data_pin)` (R322): reset is left asserted; debug is not entered. -/
def dwInit (reset clock data : PinId) (s : State) : State :=
  emit [.setOutput reset false, .set reset false, .setOutput clock false, .set clock false, .setInput data]
    (s.withDw
      { table := Config.dwDefaultTable, resetPin := reset, clockPin := clock, dataPin := data
        lastError := .none, active := true, inDebug := false })

/-- `pulse(t)` (R325): the clock high, then low, each level write guarded with its delay. -/
def pulseEvents (ck : PinId) (t : Nat) : List Event :=
  guarded [.set ck true, .delay t] ++ guarded [.set ck false, .delay t]

/-- The events of a `dw.enter()` that passes (R323): reset low, two clock pulses, reset released. -/
def dwEnterEvents (d : DwSession) : List Event :=
  guarded [.set d.resetPin false, .delay Config.dwResetLowUs]
    ++ pulseEvents d.clockPin Config.dwEnterPulseUs ++ pulseEvents d.clockPin Config.dwEnterPulseUs
    ++ guarded [.set d.resetPin true, .delay Config.dwResetReleaseUs]

/-- `dw.enter()` (R323): it checks `active` only, and a success clears a latched error. -/
def dwEnter (s : State) : State :=
  if s.dw.active = false then latchError .notActive s
  else emit (dwEnterEvents s.dw) (s.withDw { s.dw with inDebug := true, lastError := .none })

/-! ### Wire primitives -/

/-- One bit of `dw_write_byte` (R325): the data level, then a clock pulse. -/
def dwWriteBit (b : Bool) (s : State) : State :=
  emit ([.set s.dw.dataPin b] ++ pulseEvents s.dw.clockPin Config.dwClkHalfUs) s

/-- `dw_write_byte(v)` (R325), most significant bit first. -/
def dwWriteByte (v : Byte) (s : State) : State := writeBits dwWriteBit v msbOrder s

/-- `repeat n: pulse(t)`. -/
def pulsesEvents (ck : PinId) (t : Nat) (n : Nat) : List Event := (List.replicate n (pulseEvents ck t)).flatten

/-- The ready-wait loop of `switch_read()` (R326) with `rounds` rounds left: the data line is sampled; low is ready, with a
delay if there was any waiting; high costs a round of clock pulses; after the last round the bus is unresponsive, which
latches `NOT_WIRED` and leaves debug mode. -/
def dwWaitReady : Nat → Bool → State → Bool × State
  | 0, _, s => (false, s.withDw { s.dw with lastError := .notWired, inDebug := false })
  | rounds + 1, waited, s =>
    let r := getLevel s.dw.dataPin s
    if r.1 then
      dwWaitReady rounds true
        (emit (pulsesEvents s.dw.clockPin Config.dwClkHalfUs Config.dwPulsesPerRound) r.2)
    else (true, if waited then emit [.delay Config.dwSampleWaitUs] r.2 else r.2)

/-- `switch_read() -> ok` (R326). -/
def dwSwitchRead (s : State) : Bool × State :=
  dwWaitReady Config.dwWaitRounds false (emit [.setInput s.dw.dataPin] s)

/-- One bit of `dw_read_byte` (R327): the clock high, the sample, the clock low. -/
def dwReadBit (s : State) : Bool × State :=
  let r := getLevel s.dw.dataPin (emit (guarded [.set s.dw.clockPin true, .delay Config.dwClkHalfUs]) s)
  (r.1, emit (guarded [.set s.dw.clockPin false, .delay Config.dwClkHalfUs]) r.2)

/-- `dw_read_byte() -> v` (R327), most significant bit first. -/
def dwReadByte (s : State) : Byte × State := readBits dwReadBit msbOrder 0#8 s

/-! ### Debug operations -/

/-- The bytes of an operation on the wire (R328), in order. -/
def dwWriteBytes (bytes : List Byte) (s : State) : State := bytes.foldl (fun t b => dwWriteByte b t) s

/-- The part of `dw_op` before the reply (R328): the check, the opcode byte of the slot as it stands now (R105), the
arguments, and the switch to read. -/
def dwRequest (slot : Fin 16) (args : List Byte) (s : State) : Bool × State :=
  let c := dwCheck s
  if c.1 then dwSwitchRead (dwWriteBytes (s.tableByte slot :: args) (emit [.setOutput s.dw.dataPin false] s))
  else c

/-- `dw_op(slot, args, 1) -> r` (R328): 0 on any failure. -/
def dwOp8 (slot : Fin 16) (args : List Byte) (s : State) : Byte × State :=
  let q := dwRequest slot args s
  if q.1 then dwReadByte q.2 else (0x00#8, q.2)

/-- `dw_op(slot, args, 2) -> r` (R328): the high byte is read first (R90). -/
def dwOp16 (slot : Fin 16) (args : List Byte) (s : State) : Half × State :=
  let q := dwRequest slot args s
  if q.1 then
    let hi := dwReadByte q.2
    let lo := dwReadByte hi.2
    (hi.1 ++ lo.1, lo.2)
  else (0x0000#16, q.2)

/-- `dw.halt()` (R329). -/
def dwHalt (s : State) : Byte × State := dwOp8 slotHalt [] s

/-- `dw.resume()` (R330). -/
def dwResume (s : State) : Byte × State := dwOp8 slotResume [] s

/-- `dw.step()` (R331). -/
def dwStep (s : State) : Byte × State := dwOp8 slotStep [] s

/-- `dw.read_config()` (R332). -/
def dwReadConfig (s : State) : Byte × State := dwOp8 slotRdConfig [] s

/-- `dw.write_config(c)` (R333). -/
def dwWriteConfig (c : Byte) (s : State) : Byte × State := dwOp8 slotWrConfig [c] s

/-- `dw.chip_erase()` (R334). -/
def dwChipErase (s : State) : Byte × State := dwOp8 slotErase [] s

/-- `dw.exec1(a0)` (R335). -/
def dwExec1 (a0 : Byte) (s : State) : Byte × State := dwOp8 slotInstr1 [a0] s

/-- `dw.exec2(a0, a1)` (R336). -/
def dwExec2 (a0 a1 : Byte) (s : State) : Byte × State := dwOp8 slotInstr2 [a0, a1] s

/-- `dw.exec3(a0, a1, a2)` (R337). -/
def dwExec3 (a0 a1 a2 : Byte) (s : State) : Byte × State := dwOp8 slotInstr3 [a0, a1, a2] s

/-- `dw.get_chip_id()` (R338). -/
def dwGetChipId (s : State) : Half × State := dwOp16 slotChipId [] s

/-- `dw.get_pc()` (R339). -/
def dwGetPc (s : State) : Half × State := dwOp16 slotPc [] s

/-- `dw.read_status()` (R340). -/
def dwReadStatus (s : State) : Byte × State := dwOp8 slotStatus [] s

/-- `dw.exit()` (R341): resume with its checks, then out of debug; `active` is kept (90_conflicts.md C4). -/
def dwExit (s : State) : Byte × State :=
  let r := dwResume s
  (r.1, r.2.withDw { r.2.dw with inDebug := false })

/-! ### Table and error access -/

/-- `dw.instr_version()` (R343). -/
def dwInstrVersion (s : State) : Byte := s.tableByte slotVersion

/-- `dw.update_instruction_table(bytes, offset, length) -> version` (R342): the first `length` bytes of the operand go into
the slots from `offset` on; a patch that reaches beyond slot 15 is rejected whole. -/
def dwUpdateTable (bytes : List Byte) (offset length : Nat) (s : State) : Byte × State :=
  let t :=
    if offset + length > 16 then s else s.withDw { s.dw with table := patchTable s.dw.table offset (bytes.take length) }
  (dwInstrVersion t, t)

end Sys2Proof.Machine
end

