-- ==== Sys2Proof/Machine/CcProxy.lean ====
section
/-! DEFINITION. The debug-proxy framer (spec 45_ccproxy.md): its entry (R460) and its commands (R465-R483). -/

namespace Sys2Proof.Machine

/-- `ccproxy_enter()` (R460): the session is initialised only if it is not active, so an uploaded table survives. -/
def ccproxyEnter (s : State) : State :=
  let t := s.withInbuf []
  if t.dw.active = false then dwInit Config.dwResetPin Config.dwClockPin Config.dwDataPin t else t

/-- The reply of a command with an 8-bit result: `reply(r, 8)` (R463). -/
def proxyReply8 (r : Byte × State) : State := proxyReply (ok8 r.1) r.2

/-- The reply of a command with a 16-bit result: `reply(v, 16)` (R463). -/
def proxyReply16 (r : Half × State) : State := proxyReply (ok16 r.1) r.2

/-! ### The table upload (R482) -/

/-- The READY reply; the command then waits for its first byte (`uploadByte`). -/
def uploadStart (s : State) : State := sendThen readyFrame (fun t => t.withPending (.upload 0)) s

/-- Byte `off` of the upload: it is patched in as it arrives; after byte 15 the new version is sent. -/
def uploadByte (off : Fin 16) (b : Byte) (s : State) : State :=
  let t := (dwUpdateTable [b] off.val 1 s).2
  if h : off.val + 1 < 16 then t.withPending (.upload ⟨off.val + 1, h⟩)
  else reply (ok8 (dwInstrVersion t)) (t.withPending .none)

/-! ### Commands -/

/-- `CC.PING` (R465): never an error. -/
def execCcPing (s : State) : Host.Outcome State Fault Refusal := .next (reply ok0 s)

/-- `CC.ENTER` (R466). -/
def execCcEnter (s : State) : Host.Outcome State Fault Refusal := .next (proxyReply ok0 (dwEnter s))

/-- `CC.EXIT` (R467): the debug session's exit, not the mode's. -/
def execCcExit (s : State) : Host.Outcome State Fault Refusal := .next (proxyReply8 (dwExit s))

/-- `CC.CHIP_ID` (R468). -/
def execCcChipId (s : State) : Host.Outcome State Fault Refusal := .next (proxyReply16 (dwGetChipId s))

/-- `CC.STATUS` (R469). -/
def execCcStatus (s : State) : Host.Outcome State Fault Refusal := .next (proxyReply8 (dwReadStatus s))

/-- `CC.PC` (R470). -/
def execCcPc (s : State) : Host.Outcome State Fault Refusal := .next (proxyReply16 (dwGetPc s))

/-- `CC.STEP` (R471). -/
def execCcStep (s : State) : Host.Outcome State Fault Refusal := .next (proxyReply8 (dwStep s))

/-- `CC.EXEC1` (R472): the later arguments are ignored. -/
def execCcExec1 (a0 : Byte) (s : State) : Host.Outcome State Fault Refusal := .next (proxyReply8 (dwExec1 a0 s))

/-- `CC.EXEC2` (R473). -/
def execCcExec2 (a0 a1 : Byte) (s : State) : Host.Outcome State Fault Refusal := .next (proxyReply8 (dwExec2 a0 a1 s))

/-- `CC.EXEC3` (R474). -/
def execCcExec3 (a0 a1 a2 : Byte) (s : State) : Host.Outcome State Fault Refusal :=
  .next (proxyReply8 (dwExec3 a0 a1 a2 s))

/-- `CC.BURST_WRITE` (R475): unsupported, no engine call. -/
def execCcBurstWrite (s : State) : Host.Outcome State Fault Refusal := .next (reply (errFrame 0xFF#8) s)

/-- `CC.RD_CFG` (R476). -/
def execCcRdCfg (s : State) : Host.Outcome State Fault Refusal := .next (proxyReply8 (dwReadConfig s))

/-- `CC.WR_CFG` (R477). -/
def execCcWrCfg (a0 : Byte) (s : State) : Host.Outcome State Fault Refusal := .next (proxyReply8 (dwWriteConfig a0 s))

/-- `CC.CHIP_ERASE` (R478): the proxy does not wait for the erase. -/
def execCcChipErase (s : State) : Host.Outcome State Fault Refusal := .next (proxyReply8 (dwChipErase s))

/-- `CC.RESUME` (R479). -/
def execCcResume (s : State) : Host.Outcome State Fault Refusal := .next (proxyReply8 (dwResume s))

/-- `CC.HALT` (R480). -/
def execCcHalt (s : State) : Host.Outcome State Fault Refusal := .next (proxyReply8 (dwHalt s))

/-- `CC.INSTR_VER` (R481): never an error. -/
def execCcInstrVer (s : State) : Host.Outcome State Fault Refusal := .next (reply (ok8 (dwInstrVersion s)) s)

/-- `CC.INSTR_UPD` (R482): READY; the sixteen bytes follow (`uploadByte`). -/
def execCcInstrUpd (s : State) : Host.Outcome State Fault Refusal := .next (uploadStart s)

/-- `CC.UNKNOWN` (R483). -/
def execCcUnknown (s : State) : Host.Outcome State Fault Refusal := .next (reply (errFrame 0xFF#8) s)

end Sys2Proof.Machine
end

