-- ==== Sys2Proof/Machine/Select.lean ====
section
/-! DEFINITION. The four byte classes of the outer mode selector (spec 44_bbio_framer.md R391-R393, 30_encoding.md R136). The
byte has been consumed and `S.inbuf` holds the rest of its chunk. -/

namespace Sys2Proof.Machine

/-- `SEL.CCPROXY` (R391): the whole chunk, its 0xF0 included, becomes the beginning of the first proxy frame. -/
def execSelCcproxy (s : State) : Host.Outcome State Fault Refusal :=
  .next (ccproxyEnter ((s.withAcc (0xF0#8 :: s.inbuf)).withMode .ccproxy))

/-- `SEL.SHELL` (R391): the rest of the chunk is discarded. -/
def execSelShell (s : State) : Host.Outcome State Fault Refusal :=
  .next (emit [.toShell] ((s.withInbuf []).withMode .shell))

/-- `SEL.ZERO` (R392): the twentieth zero in a row enters `BBIO` and announces it; the rest of the chunk goes there. -/
def execSelZero (s : State) : Host.Outcome State Fault Refusal :=
  .next
    (if s.zeroRun + 1 < Config.zeroRun then s.withZeroRun (s.zeroRun + 1)
     else reply bbioName ((s.withZeroRun 0).withMode .bbio))

/-- `SEL.OTHER` (R392): ignored, but it ends a run of zeros. -/
def execSelOther (s : State) : Host.Outcome State Fault Refusal := .next (s.withZeroRun 0)

end Sys2Proof.Machine
end

