-- ==== Sys2Proof/Machine/Framer.lean ====
section
/-! DEFINITION. Fetching: what one step does before, or instead of, running a command (spec 44_bbio_framer.md R391, R394, R395,
R398, R412, R416, 45_ccproxy.md R461, R464, R482). A step either receives, or consumes one payload byte of the command in
progress, or makes one further pass of a search listing, or serves the shell, or consumes a command's bytes and hands the
command to `exec`. -/

namespace Sys2Proof.Machine

/-- What `fetch` found. -/
inductive Fetched where
  /-- no command begins in this step; the state after it -/
  | idle (s : State)
  /-- the command that begins, and the state after its bytes have been consumed -/
  | run (i : Instr) (s : State)
  /-- the state is one no rule describes -/
  | stuck

/-! ### Receiving -/

/-- `recv_chunk()` for the bit-bang modes (R394, R395): a chunk becomes `S.inbuf`, a timeout changes nothing, a disconnect
raises `TransportFault`; with no input left the block waits (R541). -/
def awaitInbuf (s : State) : State :=
  match receive s with
  | none => s
  | some (.chunk b bs, t) => t.withInbuf (b :: bs)
  | some (.timeout, t) => t
  | some (.disconnect, t) => transportFault t

/-- `recv_chunk()` for the debug proxy (R461, R464): the chunk is appended to `CCP.acc`. -/
def awaitAcc (s : State) : State :=
  match receive s with
  | none => s
  | some (.chunk b bs, t) => t.withAcc (t.acc ++ b :: bs)
  | some (.timeout, t) => t
  | some (.disconnect, t) => transportFault t

/-! ### Commands in progress -/

/-- The mode a send-bytes command belongs to (R35). -/
def BulkMode.mode : BulkMode → Mode
  | .i2c => .i2c
  | .ow => .ow
  | .raw => .raw

/-- The per-byte function `f` of a send-bytes command: the nack bit (R172), the byte echoed (R236), what
`raw.write_byte` returns (R294). -/
def bulkUnit (m : BulkMode) (b : Byte) (s : State) : Byte × State :=
  match m with
  | .i2c =>
    let r := i2cWriteByte b s
    (bitByte r.1, r.2)
  | .ow => (b, owWriteByte b s)
  | .raw => rawWriteByte b s

/-- One payload byte of `bulk_write` (R412) with `k` more to come after it: its engine call, its reply, and then the wait
for the next byte or the end of the command. -/
def bulkByte (m : BulkMode) (k : Nat) (b : Byte) (s : State) : State :=
  let r := bulkUnit m b s
  sendThen [r.1] (fun t => t.withPending (if k = 0 then .none else .bulk m k)) r.2

/-- `next_byte()` (R395) with what is done with the byte; with `S.inbuf` empty the step receives instead. -/
def withNextByte (k : Byte → State → State) (s : State) : State :=
  match s.inbuf with
  | [] => awaitInbuf s
  | b :: rest => k b (s.withInbuf rest)

/-- `ccp_next_byte()` (R464) with what is done with the byte. -/
def withNextAccByte (k : Byte → State → State) (s : State) : State :=
  match s.acc with
  | [] => awaitAcc s
  | b :: rest => k b (s.withAcc rest)

/-! ### The shell (R416) -/

/-- The operation an engine-port call names, with its return value. -/
def engineOp (c : EngineCall) (s : State) : EngineValue × State :=
  match c with
  | .i2cInit clock data => (.unit, i2cInit clock data s)
  | .i2cStart => (.unit, i2cStart s)
  | .i2cStop => (.unit, i2cStop s)
  | .i2cWriteBit b => (.unit, i2cWriteBit b s)
  | .i2cReadBit => (.bit (i2cReadBit s).1, (i2cReadBit s).2)
  | .i2cReadByte => (.byte (i2cReadByte s).1, (i2cReadByte s).2)
  | .i2cWriteByte v => (.bit (i2cWriteByte v s).1, (i2cWriteByte v s).2)
  | .i2cPullupsOk => (.bit (i2cPullupsOk s).1, (i2cPullupsOk s).2)
  | .owInit pin => (.unit, owInit pin s)
  | .owWriteBit b => (.unit, owWriteBit b s)
  | .owReadBit => (.bit (owReadBit s).1, (owReadBit s).2)
  | .owReset nowait => (.bit (owReset nowait s).1, (owReset nowait s).2)
  | .owWriteByte v => (.unit, owWriteByte v s)
  | .owReadByte => (.byte (owReadByte s).1, (owReadByte s).2)
  | .crc8 bytes => (.byte (crc8 bytes), s)
  | .owFindFirst cmd => (.bit (owFindFirst cmd s).1, (owFindFirst cmd s).2)
  | .owFindNext => (.bit (owFindNext s).1, (owFindNext s).2)
  | .rawInit => (.unit, rawInit s)
  | .rawApplyConfig => (.unit, rawApplyConfig s)
  | .rawStart => (.unit, rawStart s)
  | .rawStop => (.unit, rawStop s)
  | .rawCs level => (.unit, rawCs level s)
  | .rawTick => (.unit, rawTick s)
  | .rawWriteBit b => (.bit (rawWriteBit b s).1, (rawWriteBit b s).2)
  | .rawReadBit => (.bit (rawReadBit s).1, (rawReadBit s).2)
  | .rawReadByte => (.byte (rawReadByte s).1, (rawReadByte s).2)
  | .rawWriteByte v => (.byte (rawWriteByte v s).1, (rawWriteByte v s).2)
  | .rawPeek => (.bit (rawPeek s).1, (rawPeek s).2)
  | .rawClock level => (.unit, rawClock level s)
  | .rawData level => (.unit, rawData level s)
  | .dwInit reset clock data => (.unit, dwInit reset clock data s)
  | .dwEnter => (.unit, dwEnter s)
  | .dwHalt => (.byte (dwHalt s).1, (dwHalt s).2)
  | .dwResume => (.byte (dwResume s).1, (dwResume s).2)
  | .dwStep => (.byte (dwStep s).1, (dwStep s).2)
  | .dwReadConfig => (.byte (dwReadConfig s).1, (dwReadConfig s).2)
  | .dwWriteConfig c => (.byte (dwWriteConfig c s).1, (dwWriteConfig c s).2)
  | .dwChipErase => (.byte (dwChipErase s).1, (dwChipErase s).2)
  | .dwExec1 a0 => (.byte (dwExec1 a0 s).1, (dwExec1 a0 s).2)
  | .dwExec2 a0 a1 => (.byte (dwExec2 a0 a1 s).1, (dwExec2 a0 a1 s).2)
  | .dwExec3 a0 a1 a2 => (.byte (dwExec3 a0 a1 a2 s).1, (dwExec3 a0 a1 a2 s).2)
  | .dwGetChipId => (.half (dwGetChipId s).1, (dwGetChipId s).2)
  | .dwGetPc => (.half (dwGetPc s).1, (dwGetPc s).2)
  | .dwReadStatus => (.byte (dwReadStatus s).1, (dwReadStatus s).2)
  | .dwExit => (.byte (dwExit s).1, (dwExit s).2)
  | .dwUpdateTable p =>
    (.byte (dwUpdateTable p.bytes p.offset.toNat p.length.toNat s).1,
      (dwUpdateTable p.bytes p.offset.toNat p.length.toNat s).2)
  | .dwInstrVersion => (.byte (dwInstrVersion s), s)
  | .dwError => (.error s.dw.lastError, s)

/-- One call through the engine port, to completion: the call, the operation's own events, the return. -/
def engineCall (c : EngineCall) (s : State) : State :=
  let r := engineOp c (emit [.engineCall c] s)
  emit [.engineReturn r.1] r.2

/-- `SHELL` mode (R416): no `Recv` and no `Send`; the block serves the engine port until the shell exits, which enters
`SELECT` with no input kept. -/
def shellStep (s : State) : State :=
  match s.env.port with
  | [] => s
  | .call c :: rest => engineCall c { s with env := { s.env with port := rest } }
  | .exit :: rest => enterSelect (emit [.shellExit] { s with env := { s.env with port := rest } })

/-! ### Fetching a command -/

/-- The selector's fetch (R391): a byte of the chunk at hand, else a receive; the first byte of the first chunk is
classified as a leading byte, and a disconnect only resets the selector. -/
def fetchSelect (s : State) : Fetched :=
  match s.inbuf with
  | b :: rest => .run (decodeSelect false b) (s.withInbuf rest)
  | [] =>
    match receive s with
    | none => .idle s
    | some (.timeout, t) => .idle t
    | some (.disconnect, t) => .idle ((t.withFirstChunk true).withZeroRun 0)
    | some (.chunk b bs, t) => .run (decodeSelect s.firstChunk b) ((t.withInbuf bs).withFirstChunk false)

/-- The fetch of the bit-bang modes (R398): the next opcode byte, by the mode's table, else a receive. -/
def fetchOpcode (s : State) : Fetched :=
  match decode ⟨s.mode, false⟩ s.inbuf with
  | .ok (i, rest) => .run i (s.withInbuf rest)
  | .error _ => .idle (awaitInbuf s)

/-- The debug proxy's fetch (R461): a whole frame, else a receive. -/
def fetchFrame (s : State) : Fetched :=
  match decode ⟨.ccproxy, false⟩ s.acc with
  | .ok (i, rest) => .run i (s.withAcc rest)
  | .error _ => .idle (awaitAcc s)

/-- The block's top-level step up to running a command (R398), with the command in progress going first. -/
def fetch (s : State) : Fetched :=
  if s.listing then
    if s.mode = .ow ∧ s.pending = .none then .idle (searchListNext (s.withListing false)) else .stuck
  else
    match s.pending with
    | .bulk m k =>
      if s.mode = m.mode ∧ 1 ≤ k ∧ k ≤ 16 then .idle (withNextByte (bulkByte m (k - 1)) s) else .stuck
    | .selfTest => if s.mode = .bbio then .idle (withNextByte (fun _ t => selfTestClose t) s) else .stuck
    | .upload off => if s.mode = .ccproxy then .idle (withNextAccByte (uploadByte off) s) else .stuck
    | .none =>
      match s.mode with
      | .select => fetchSelect s
      | .bbio | .i2c | .ow | .raw => fetchOpcode s
      | .ccproxy => fetchFrame s
      | .shell => .idle (shellStep s)

end Sys2Proof.Machine
end

