-- ==== Sys2Proof/Machine/Dispatch.lean ====
section
/-! DEFINITION. The dispatch of commands to their meanings, one arm for each row of spec/opcode_table.json. -/

namespace Sys2Proof.Machine

def exec (i : Instr) (s : State) : Host.Outcome State Fault Refusal :=
  match i with
  | .selCcproxy => Sys2Proof.Machine.execSelCcproxy s
  | .selShell => Sys2Proof.Machine.execSelShell s
  | .selZero => Sys2Proof.Machine.execSelZero s
  | .selOther _ => Sys2Proof.Machine.execSelOther s
  | .bbReset => Sys2Proof.Machine.execBbReset s
  | .bbVersion => Sys2Proof.Machine.execBbVersion s
  | .bbI2c => Sys2Proof.Machine.execBbI2c s
  | .bbOw => Sys2Proof.Machine.execBbOw s
  | .bbRaw => Sys2Proof.Machine.execBbRaw s
  | .bbShell => Sys2Proof.Machine.execBbShell s
  | .bbSelftest => Sys2Proof.Machine.execBbSelftest s
  | .bbSelftestLong => Sys2Proof.Machine.execBbSelftestLong s
  | .bbPindir a o d m c => Sys2Proof.Machine.execBbPindir a o d m c s
  | .bbPinset _ _ a o d m c => Sys2Proof.Machine.execBbPinset a o d m c s
  | .bbUnknown _ => Sys2Proof.Machine.execBbUnknown s
  | .i2cExit => Sys2Proof.Machine.execI2cExit s
  | .i2cVersion => Sys2Proof.Machine.execI2cVersion s
  | .i2cStart => Sys2Proof.Machine.execI2cStart s
  | .i2cStop => Sys2Proof.Machine.execI2cStop s
  | .i2cRead => Sys2Proof.Machine.execI2cRead s
  | .i2cAck => Sys2Proof.Machine.execI2cAck s
  | .i2cNack => Sys2Proof.Machine.execI2cNack s
  | .i2cWrite n => Sys2Proof.Machine.execI2cWrite n s
  | .i2cPeriph _ _ y z => Sys2Proof.Machine.execI2cPeriph y z s
  | .i2cSpeed _ => Sys2Proof.Machine.execI2cSpeed s
  | .i2cUnknown _ => Sys2Proof.Machine.execI2cUnknown s
  | .owExit => Sys2Proof.Machine.execOwExit s
  | .owVersion => Sys2Proof.Machine.execOwVersion s
  | .owReset => Sys2Proof.Machine.execOwReset s
  | .owRead => Sys2Proof.Machine.execOwRead s
  | .owSearchRom => Sys2Proof.Machine.execOwSearchRom s
  | .owSearchAlarm => Sys2Proof.Machine.execOwSearchAlarm s
  | .owWrite n => Sys2Proof.Machine.execOwWrite n s
  | .owPeriph _ _ y z => Sys2Proof.Machine.execOwPeriph y z s
  | .owUnknown _ => Sys2Proof.Machine.execOwUnknown s
  | .rawExit => Sys2Proof.Machine.execRawExit s
  | .rawVersion => Sys2Proof.Machine.execRawVersion s
  | .rawStart => Sys2Proof.Machine.execRawStart s
  | .rawStop => Sys2Proof.Machine.execRawStop s
  | .rawCsLow => Sys2Proof.Machine.execRawCsLow s
  | .rawCsHigh => Sys2Proof.Machine.execRawCsHigh s
  | .rawReadByte => Sys2Proof.Machine.execRawReadByte s
  | .rawReadBit => Sys2Proof.Machine.execRawReadBit s
  | .rawPeek => Sys2Proof.Machine.execRawPeek s
  | .rawTick => Sys2Proof.Machine.execRawTick s
  | .rawClkLow => Sys2Proof.Machine.execRawClkLow s
  | .rawClkHigh => Sys2Proof.Machine.execRawClkHigh s
  | .rawDatLow => Sys2Proof.Machine.execRawDatLow s
  | .rawDatHigh => Sys2Proof.Machine.execRawDatHigh s
  | .rawWrite n => Sys2Proof.Machine.execRawWrite n s
  | .rawPeriph _ _ y z => Sys2Proof.Machine.execRawPeriph y z s
  | .rawSpeed tier => Sys2Proof.Machine.execRawSpeed tier s
  | .rawConfig w x y _ => Sys2Proof.Machine.execRawConfig w x y s
  | .rawUnknown _ => Sys2Proof.Machine.execRawUnknown s
  | .ccPing _ _ _ => Sys2Proof.Machine.execCcPing s
  | .ccEnter _ _ _ => Sys2Proof.Machine.execCcEnter s
  | .ccExit _ _ _ => Sys2Proof.Machine.execCcExit s
  | .ccChipId _ _ _ => Sys2Proof.Machine.execCcChipId s
  | .ccStatus _ _ _ => Sys2Proof.Machine.execCcStatus s
  | .ccPc _ _ _ => Sys2Proof.Machine.execCcPc s
  | .ccStep _ _ _ => Sys2Proof.Machine.execCcStep s
  | .ccExec1 a0 _ _ => Sys2Proof.Machine.execCcExec1 a0 s
  | .ccExec2 a0 a1 _ => Sys2Proof.Machine.execCcExec2 a0 a1 s
  | .ccExec3 a0 a1 a2 => Sys2Proof.Machine.execCcExec3 a0 a1 a2 s
  | .ccBurstWrite _ _ _ => Sys2Proof.Machine.execCcBurstWrite s
  | .ccRdCfg _ _ _ => Sys2Proof.Machine.execCcRdCfg s
  | .ccWrCfg a0 _ _ => Sys2Proof.Machine.execCcWrCfg a0 s
  | .ccChipErase _ _ _ => Sys2Proof.Machine.execCcChipErase s
  | .ccResume _ _ _ => Sys2Proof.Machine.execCcResume s
  | .ccHalt _ _ _ => Sys2Proof.Machine.execCcHalt s
  | .ccInstrVer _ _ _ => Sys2Proof.Machine.execCcInstrVer s
  | .ccInstrUpd _ _ _ => Sys2Proof.Machine.execCcInstrUpd s
  | .ccUnknown _ _ _ _ => Sys2Proof.Machine.execCcUnknown s

end Sys2Proof.Machine
end

