-- ==== Sys2Proof/Machine/Step.lean ====
section
/-! DEFINITION. One step of the block (spec 44_bbio_framer.md R398), and the placing of a command where the next step fetches
it. Fetching itself is in Framer.lean, the meanings in the family files. -/

namespace Sys2Proof.Machine

/-- One step: what `fetch` does, and the meaning of the command it hands over. -/
def step (s : State) : Host.Outcome State Fault Refusal :=
  match fetch s with
  | .idle t => .next t
  | .run i t => exec i t
  | .stuck => .fault .noRule

/-- `s` with the command whose bits are `w` where the next step fetches it, in the mode in which the number is read
(`tableContext`), with no command in progress. A leading byte is a chunk the host sends as the first of a session; any
other command's bytes are the next ones of the framer's buffer. -/
def State.withFetchWord (s : State) (nbits w : Nat) : State :=
  let ctx := tableContext nbits w
  let t : State := { s with mode := ctx.mode, pending := .none, listing := false }
  if ctx.leading then
    { t with
      inbuf := []
      firstChunk := true
      env := { t.env with rx := .chunk (BitVec.ofNat 8 w) [] :: t.env.rx } }
  else if ctx.mode = .ccproxy then { t with acc := tableBytes w ++ t.acc }
  else { t with inbuf := BitVec.ofNat 8 w :: t.inbuf }

end Sys2Proof.Machine
end

