-- ==== Sys2Proof/Safety.lean ====
section
/-! DEFINITION. The words the statements use: the events of a trace (spec 20_memory.md R81), what it is for a command to
answer (44_bbio_framer.md R397, R527), the command in progress and the other relations between fields that the rules keep
(`State.Inv`), the guard discipline (70_reset_and_hazards.md R575), and the bus of 1-Wire devices of 41_onewire.md R217. -/

namespace Sys2Proof

/-- The bit-bang modes. -/
def Mode.bitBang : Mode → Bool
  | .bbio | .i2c | .ow | .raw => true
  | .select | .ccproxy | .shell => false

/-- The modes that may follow a mode after one step: the table of R533. -/
def Mode.mayBecome (m next : Mode) : Bool :=
  match m with
  | .select => [Mode.select, .bbio, .ccproxy, .shell].contains next
  | .bbio => [Mode.bbio, .i2c, .ow, .raw, .shell, .select].contains next
  | .i2c => [Mode.i2c, .bbio, .select].contains next
  | .ow => [Mode.ow, .bbio, .select].contains next
  | .raw => [Mode.raw, .bbio, .select].contains next
  | .ccproxy => [Mode.ccproxy, .select].contains next
  | .shell => [Mode.shell, .select].contains next

end Sys2Proof

namespace Sys2Proof.Machine

/-! ### Events -/

/-- Whether an event is a `Send`. -/
def Event.isSend : Event → Bool
  | .send _ _ => true
  | _ => false

/-- Whether an event is a `Recv`. -/
def Event.isRecv : Event → Bool
  | .recv _ _ => true
  | _ => false

/-- Whether an event is a `Get` or a `GetDir`. -/
def Event.isSample : Event → Bool
  | .get _ _ => true
  | .getDir _ _ => true
  | _ => false

/-- `s` with one `Send(bs)` issued, whose result `r` has been taken from the script, and nothing else changed. -/
def State.sending (s : State) (bs : List Byte) (r : SendResult) : State :=
  { s with env := { s.env with tx := s.env.tx.tail }, trace := .send bs r :: s.trace }

/-- The answer of the draw `k` draws from now. -/
def State.level (s : State) (k : Nat) : Bool := s.env.draw (s.env.drawn + k)

/-- The byte whose bit `i` is `f i`. -/
def byteOf (f : Nat → Bool) : Byte :=
  BitVec.ofBool (f 7) ++ BitVec.ofBool (f 6) ++ BitVec.ofBool (f 5) ++ BitVec.ofBool (f 4)
    ++ BitVec.ofBool (f 3) ++ BitVec.ofBool (f 2) ++ BitVec.ofBool (f 1) ++ BitVec.ofBool (f 0)

/-- The command `i` at `s` does what turns `s` into `u` and then sends `bs`: if the `Send` is accepted that is all, and the
state `after u` is reached; if not, `TransportFault` is handled where the `Send` failed (R525, R527). -/
def Answers (i : Instr) (s u : State) (bs : List Byte) (andThen : State → State := id) : Prop :=
  (s.env.sendResult = .sent → exec i s = .next (andThen (u.sending bs .sent)))
    ∧ (s.env.sendResult ≠ .sent → exec i s = .next (transportFault (u.sending bs s.env.sendResult)))

/-- The byte sequences of the `Send`s among some events, in the order of the list. -/
def sentUnits (es : List Event) : List (List Byte) :=
  es.filterMap fun e => match e with
    | .send bs _ => some bs
    | _ => none

/-! ### Wire sequences as the rules print them -/

/-- The bit positions of a byte, most significant first (R87, R90). -/
def msbFirst : List Nat := [7, 6, 5, 4, 3, 2, 1, 0]

/-- The bit positions of a byte, least significant first (R88). -/
def lsbFirst : List Nat := [0, 1, 2, 3, 4, 5, 6, 7]

/-- One bit written by the I2C engine (R154). -/
def i2cBitOut (x : I2cSession) (b : Bool) : List Event :=
  [.set x.sda b, .delay 5, .set x.scl true, .delay 5, .set x.scl false]

/-- One bit read by the I2C engine (R155). -/
def i2cBitIn (x : I2cSession) (l : Bool) : List Event :=
  [.set x.sda true, .delay 5, .set x.scl true, .delay 5, .get x.sda l, .set x.scl false]

/-- One bit written by the 1-Wire engine (R201, R202). -/
def owBitOut (p : PinId) (b : Bool) : List Event :=
  if b then [.set p false, .delay 6, .set p true, .delay 64] else [.set p false, .delay 60, .set p true, .delay 10]

/-- One bit read by the 1-Wire engine (R203). -/
def owBitIn (p : PinId) (l : Bool) : List Event :=
  [.set p false, .delay 6, .set p true, .delay 9, .get p l, .delay 55]

/-- A 1-Wire reset up to its sample (R204). -/
def owResetSlot (p : PinId) (l : Bool) : List Event :=
  [.set p false, .delay 480, .set p true, .delay 70, .get p l]

/-- `drive_data(l)` (R262). -/
def rawDrive (x : RawSession) (l : Bool) : List Event :=
  match x.wireCount with
  | .two => [.setOutput .mosi (decide (x.driveMode = .openDrain)), .set .mosi l]
  | .three => [.set .mosi l]

/-- One bit written by the raw engine (R268), `l` the level sampled in 3-wire mode. -/
def rawBitOut (x : RawSession) (b l : Bool) : List Event :=
  rawDrive x b ++ [.delay x.halfBitDelayUs, .set .clk true, .delay x.halfBitDelayUs]
    ++ (match x.wireCount with
        | .two => []
        | .three => [.get .miso l])
    ++ [.set .clk false]

/-- One bit read by the raw engine (R269). -/
def rawBitIn (x : RawSession) (l : Bool) : List Event :=
  match x.wireCount with
  | .two =>
    [.setInput .mosi, .delay x.halfBitDelayUs, .set .clk true, .delay x.halfBitDelayUs, .get .mosi l, .set .clk false]
  | .three => [.delay x.halfBitDelayUs, .set .clk true, .delay x.halfBitDelayUs, .get .miso l, .set .clk false]

/-- The order of the bits of a raw byte (R270, R271). -/
def rawOrder (x : RawSession) : List Nat :=
  match x.bitOrder with
  | .msbFirst => msbFirst
  | .lsbFirst => lsbFirst

/-- A level write and the delay after it, guarded (R325). -/
def guardedLevel (p : PinId) (l : Bool) (t : Nat) : List Event := [.guardBegin, .set p l, .delay t, .guardEnd]

/-- One byte written by the debug-wire engine (R325). -/
def dwByteOut (d : DwSession) (v : Byte) : List Event :=
  msbFirst.flatMap fun j =>
    [.set d.dataPin (v.getLsbD j)] ++ guardedLevel d.clockPin true Config.dwClkHalfUs
      ++ guardedLevel d.clockPin false Config.dwClkHalfUs

/-- One bit read by the debug-wire engine (R327). -/
def dwBitIn (d : DwSession) (l : Bool) : List Event :=
  guardedLevel d.clockPin true Config.dwClkHalfUs ++ [.get d.dataPin l]
    ++ guardedLevel d.clockPin false Config.dwClkHalfUs

/-- Bytes sent by a debug operation, up to the switch to read (R328, R326). -/
def dwSent (d : DwSession) (bytes : List Byte) : List Event :=
  [.setOutput d.dataPin false] ++ bytes.flatMap (dwByteOut d) ++ [.setInput d.dataPin]

/-- One round of a ready wait: a high sample and eight clock pulses (R326). -/
def dwRound (d : DwSession) : List Event :=
  [.get d.dataPin true] ++ (List.replicate 8
    (guardedLevel d.clockPin true Config.dwClkHalfUs ++ guardedLevel d.clockPin false Config.dwClkHalfUs)).flatten

/-- A ready wait that succeeds after `k` rounds (R326): the rounds, the low sample, and the delay if there was any waiting. -/
def dwReady (d : DwSession) (k : Nat) : List Event :=
  (List.replicate k (dwRound d)).flatten ++ [.get d.dataPin false] ++ if k = 0 then [] else [.delay Config.dwSampleWaitUs]

/-- A ready wait that gives up (R326): 255 rounds. -/
def dwGivesUp (d : DwSession) : List Event := (List.replicate 255 (dwRound d)).flatten

/-- The target of a ready wait that starts at `s` is ready after `k` high samples, at most 254. -/
def State.readyAfter (s : State) (k : Nat) : Prop := k < 255 ∧ (∀ j < k, s.level j = true) ∧ s.level k = false

/-- The target of a ready wait that starts at `s` is not ready in 255 samples. -/
def State.neverReady (s : State) : Prop := ∀ j < 255, s.level j = true

/-- The debug-wire session after a ready wait has given up (R326). -/
def dwUnwired (d : DwSession) : DwSession := { d with lastError := .notWired, inDebug := false }

/-- The proxy's commands whose debug operation answers one byte: the table slot and the argument bytes (R321, R469-R480). -/
def byteCommand : Instr → Option (Fin 16 × List Byte)
  | .ccHalt _ _ _ => some (1, [])
  | .ccResume _ _ _ => some (2, [])
  | .ccRdCfg _ _ _ => some (3, [])
  | .ccWrCfg a0 _ _ => some (4, [a0])
  | .ccExec1 a0 _ _ => some (5, [a0])
  | .ccExec2 a0 a1 _ => some (6, [a0, a1])
  | .ccExec3 a0 a1 a2 => some (7, [a0, a1, a2])
  | .ccStatus _ _ _ => some (10, [])
  | .ccStep _ _ _ => some (11, [])
  | .ccChipErase _ _ _ => some (12, [])
  | _ => none

/-- The proxy's commands whose debug operation answers two bytes (R338, R339). -/
def wordCommand : Instr → Option (Fin 16)
  | .ccChipId _ _ _ => some 8
  | .ccPc _ _ _ => some 9
  | _ => none

/-- The reply to a debug operation: the latched error, else the result (R462, R463). -/
def dwReply (d : DwSession) (low high : Byte) : List Byte :=
  match d.lastError with
  | .none => [0x01#8, low, high]
  | .notActive => [0x02#8, 0x01#8, 0x00#8]
  | .notDebugging => [0x02#8, 0x02#8, 0x00#8]
  | .notWired => [0x02#8, 0x03#8, 0x00#8]

/-! ### The relations between the fields that the rules keep -/

/-- The command in progress belongs to the mode (R35), and a search listing is under way only in 1-Wire mode. -/
def State.commandOk (s : State) : Bool :=
  if s.listing then decide (s.mode = .ow) && decide (s.pending = .none)
  else
    match s.pending with
    | .none => true
    | .bulk m k => decide (s.mode = m.mode) && decide (1 ≤ k) && decide (k ≤ 16)
    | .selfTest => decide (s.mode = .bbio)
    | .upload _ => decide (s.mode = .ccproxy)

/-- The selector's fields (R32, R33): a count of 0 to 19, 0 outside `SELECT`; and no chunk has been received while
`S.first_chunk` is set. -/
def State.selectorOk (s : State) : Bool :=
  decide (s.zeroRun < Config.zeroRun)
    && (decide (s.mode = .select) || (decide (s.zeroRun = 0) && !s.firstChunk))
    && (!s.firstChunk || (decide (s.zeroRun = 0) && decide (s.inbuf = [])))

/-- The framer's buffers belong to their modes (R34, R55): no input is kept in `SHELL`, `S.inbuf` is not used in `CCPROXY`
and `CCP.acc` is used nowhere else. -/
def State.buffersOk (s : State) : Bool :=
  (decide (s.mode = .ccproxy) || decide (s.acc = []))
    && ((!decide (s.mode = .ccproxy) && !decide (s.mode = .shell)) || decide (s.inbuf = []))

/-- The sessions: the legal values of R40 and R46, the raw session at its reset values outside `RAW` (R47), each bus engine
on its role pins in its mode (R401, R402), and `IN_DEBUG` and `CCPROXY` only with an active debug-wire session (R53, R460). -/
def State.sessionsOk (s : State) : Bool :=
  decide (s.ow.lastDiscrepancy ≤ 64)
    && [100, 10, 5, 1].contains s.raw.halfBitDelayUs
    && (decide (s.mode = .raw) || decide (s.raw = rawDefaults))
    && (!decide (s.mode = .i2c) || decide (s.i2c = { scl := .clk, sda := .mosi }))
    && (!decide (s.mode = .ow) || decide (s.ow.pin = .mosi))
    && (!s.dw.inDebug || s.dw.active)
    && (!decide (s.mode = .ccproxy) || s.dw.active)

/-- What every reachable state satisfies. -/
def State.Inv (s : State) : Prop :=
  s.commandOk = true ∧ s.selectorOk = true ∧ s.buffersOk = true ∧ s.sessionsOk = true

/-- The buffers' bounds (R34, R55), as long as the host's chunks are no longer than `CHUNK_MAX`. -/
def State.Bounded (s : State) : Prop :=
  s.inbuf.length ≤ Config.chunkMax ∧ s.acc.length ≤ Config.ccpBuf ∧
    ∀ b bs, RecvResult.chunk b bs ∈ s.env.rx → (b :: bs).length ≤ Config.chunkMax

/-- The tracked pins are in their one canonical form: keys strictly rising, and no entry that says nothing. -/
def pinsCanonical (pins : List (PinId × PinSetting)) : Prop :=
  pins.Pairwise (fun a b => a.1.key < b.1.key) ∧
    ∀ a ∈ pins, a.2 ≠ { input := none, openDrain := none, latch := none }

/-! ### Guards (R575) -/

/-- Whether a guard is open after the events, the newest first; `none` where the discipline was broken: a guard inside a
guard, an end without a beginning, or an event other than `Set` and `Delay` inside a guard. -/
def guardOpen : List Event → Option Bool
  | [] => some false
  | e :: es =>
    match guardOpen es, e with
    | some false, .guardBegin => some true
    | some false, .guardEnd => none
    | some false, _ => some false
    | some true, .guardEnd => some false
    | some true, .set _ _ => some true
    | some true, .delay _ => some true
    | some true, _ => none
    | none, _ => none

/-! ### Runs -/

/-- `s` answers `t` after `n` steps. -/
def Runs (n : Nat) (s t : State) : Prop := core.run n s = .next t

/-- The block waits for input in a mode other than `SELECT` and `SHELL`: nothing it could consume is at hand. -/
def State.waits (s : State) : Bool :=
  s.commandOk && !s.listing &&
    match s.mode with
    | .bbio | .i2c | .ow | .raw => s.inbuf.isEmpty
    | .ccproxy => if s.pending = .none then decide (s.acc.length < 4) else s.acc.isEmpty
    | .select | .shell => false

/-- The bytes the host has sent and no framer has consumed: what is left of the last chunk, then the chunks to come. -/
def State.hostBytes (s : State) : List Byte :=
  s.inbuf ++ s.env.rx.flatMap fun r => match r with
    | .chunk b bs => b :: bs
    | .timeout => []
    | .disconnect => []

/-- Two states that differ only in where the host's chunks end: the same bytes to come and no disconnect among the coming
receives, the same events but for `Recv`s, and every other field the same (R396). -/
def SameButChunks (s u : State) : Prop :=
  s.hostBytes = u.hostBytes
    ∧ RecvResult.disconnect ∉ s.env.rx ∧ RecvResult.disconnect ∉ u.env.rx
    ∧ s.trace.filter (fun e => !e.isRecv) = u.trace.filter (fun e => !e.isRecv)
    ∧ ({ s with inbuf := [], trace := [], env := { s.env with rx := [] } } : State)
      = { u with inbuf := [], trace := [], env := { u.env with rx := [] } }

/-! ### A bus of 1-Wire devices (R217) -/

/-- Whether two ids agree on every bit position below `k`. -/
def agreeBelow (k : Nat) (x y : BitVec 64) : Bool := (List.range k).all fun j => x.getLsbD j == y.getLsbD j

/-- The devices that still listen at position `k` of a pass that has chosen the bits of `path` below it. -/
def listening (ids : List (BitVec 64)) (path : BitVec 64) (k : Nat) : List (BitVec 64) :=
  ids.filter (agreeBelow k path)

/-- The draws from `s` on are what a bus with the devices `ids` answers in a pass that follows `path`: presence, and at
each position the id bit and then its complement, each low as soon as one listening device pulls it low. -/
def BusFollows (ids : List (BitVec 64)) (path : BitVec 64) (s : State) : Prop :=
  s.level 0 = false ∧ ∀ k < 64,
    s.level (1 + 2 * k) = (listening ids path k).all (fun x => x.getLsbD k)
      ∧ s.level (2 + 2 * k) = (listening ids path k).all (fun x => !x.getLsbD k)

/-- The events of a search pass that answers `path` (R211, R212). -/
def searchEvents (s : State) (cmd : Byte) (path : BitVec 64) : List Event :=
  owResetSlot s.ow.pin (s.level 0) ++ lsbFirst.flatMap (fun j => owBitOut s.ow.pin (cmd.getLsbD j))
    ++ (List.range 64).flatMap fun k =>
        owBitIn s.ow.pin (s.level (1 + 2 * k)) ++ owBitIn s.ow.pin (s.level (2 + 2 * k))
          ++ owBitOut s.ow.pin (path.getLsbD k)

/-- The first bit position at which two ids differ, 64 where there is none. -/
def firstDifference (x y : BitVec 64) : Nat :=
  ((List.range 64).find? fun k => x.getLsbD k != y.getLsbD k).getD 64

/-- `x` comes before `y` in a search: at the first position at which they differ `x` has the 0. -/
def SearchedBefore (x y : BitVec 64) : Prop := firstDifference x y < 64 ∧ x.getLsbD (firstDifference x y) = false

/-- `OW.last_discrepancy` after the pass that found `x`: where the id after it branches off, or 64 for "none". -/
def branchAfter (x : BitVec 64) : Option (BitVec 64) → Nat
  | some y => firstDifference x y
  | none => 64

end Sys2Proof.Machine
end

