-- ==== Sys2Proof/Certificates/Slice0/Obligations.lean ====
section
/-! DEFINITION. The statements about the block, in the words of Sys2Proof/Safety.lean; OBLIGATIONS.json lists them with the
rules they formalise. `Answers i s u bs` says both what the command does when its `Send` is accepted and that a failed `Send`
is a `TransportFault`; every event is written out, and `State.after` and `State.sending` change nothing but the
environment and the trace, so each such equation is also the command's frame. -/

open Sys2Proof Sys2Proof.Machine

/-! ### Encoding -/

/-- Decoding the encoding of a well-formed command gives it back, whatever follows it. -/
def Obligations.DecodeOfEncodeIsTheInstruction : Prop :=
  ∀ (i : Instr) (rest : List Byte), i.wellFormed = true → decode i.context (encode i ++ rest) = .ok (i, rest)

/-- What the decoder reads is well formed, belongs to the mode and encodes to the bytes it was read from: no bit of the
input is dropped. -/
def Obligations.EncodeOfDecodeIsTheBytes : Prop :=
  ∀ (ctx : Context) (bytes rest : List Byte) (i : Instr), decode ctx bytes = .ok (i, rest) →
    bytes = encode i ++ rest ∧ i.wellFormed = true ∧ i.context.mode = ctx.mode
      ∧ (i.context.leading = true → ctx.leading = true)

/-- Every byte is a command of each bit-bang mode and of the selector, and every four bytes are a frame of the proxy
(R131, R136); only with too few bytes, or in `SHELL`, is there no command. -/
def Obligations.EveryByteDecodesInItsMode : Prop :=
  (∀ (ctx : Context) (b : Byte) (rest : List Byte), ctx.mode ≠ .ccproxy → ctx.mode ≠ .shell →
      ∃ i, decode ctx (b :: rest) = .ok (i, rest))
    ∧ (∀ (l : Bool) (op a0 a1 a2 : Byte) (rest : List Byte),
        ∃ i, decode ⟨.ccproxy, l⟩ (op :: a0 :: a1 :: a2 :: rest) = .ok (i, rest))

/-- Words written out from the maps of R128-R130 and R136, and R134's examples, decode to their commands. -/
def Obligations.WordsFromTheMapsDecode : Prop :=
  decode ⟨.select, true⟩ [0xF0#8] = .ok (.selCcproxy, [])
    ∧ decode ⟨.bbio, false⟩ [0b01010011#8] = .ok (.bbPindir true false false true true, [])
    ∧ decode ⟨.bbio, false⟩ [0b10001010#8] = .ok (.bbPinset false false false true false true false, [])
    ∧ decode ⟨.i2c, false⟩ [0x11#8, 0xA0#8, 0x00#8] = .ok (.i2cWrite 1, [0xA0#8, 0x00#8])
    ∧ decode ⟨.i2c, false⟩ [0x62#8] = .ok (.i2cSpeed 2, [])
    ∧ decode ⟨.ow, false⟩ [0x08#8] = .ok (.owSearchRom, [])
    ∧ decode ⟨.raw, false⟩ [0x8C#8] = .ok (.rawConfig true true false false, [])
    ∧ decode ⟨.ccproxy, false⟩ [0x07#8, 0xE5#8, 0x00#8, 0x00#8] = .ok (.ccExec1 0xE5#8 0x00#8 0x00#8, [])

/-! ### Fetching -/

/-- With no command in progress a step takes the next command from the bytes at hand and runs it; in `SELECT` the first
byte of a received chunk is decoded as a leading byte exactly while `S.first_chunk` is set. That a step in `SELECT` takes one
byte of the chunk, whose rest stands in `S.inbuf`, is the model's choice (notes/assumptions/5.md, 7.md), and so is the
script of receives (4.md): R391 takes the whole chunk. -/
def Obligations.StepRunsTheDecodedInstruction : Prop :=
  ∀ (s : State) (i : Instr) (rest : List Byte), s.listing = false → s.pending = .none →
    ((s.mode.bitBang = true ∨ s.mode = .select) → decode ⟨s.mode, false⟩ s.inbuf = .ok (i, rest) →
        step s = exec i { s with inbuf := rest })
    ∧ (s.mode = .ccproxy → decode ⟨.ccproxy, false⟩ s.acc = .ok (i, rest) → step s = exec i { s with acc := rest })
    ∧ (∀ (b : Byte) (bs : List Byte) (more : List RecvResult),
        s.mode = .select → s.inbuf = [] → s.env.rx = .chunk b bs :: more →
        decode ⟨.select, s.firstChunk⟩ (b :: bs) = .ok (i, rest) →
        step s = exec i { s with
          inbuf := rest
          firstChunk := false
          env := { s.env with rx := more }
          trace := .recv Config.recvTimeout (.chunk b bs) :: s.trace })

/-- A step of a framer that has nothing to consume receives: with no input left it waits unchanged, a timeout changes
nothing, a chunk is kept (appended in `CCPROXY`), a disconnect is a `TransportFault`; and in `SELECT` a timeout changes
nothing and a disconnect only resets the selector. -/
def Obligations.WaitingStepReceives : Prop :=
  ∀ (s : State) (more : List RecvResult) (b : Byte) (bs : List Byte),
    let received (r : RecvResult) : State :=
      { s with env := { s.env with rx := more }, trace := .recv Config.recvTimeout r :: s.trace }
    (s.waits = true →
      (s.env.rx = [] → step s = .next s)
      ∧ (s.env.rx = .timeout :: more → step s = .next (received .timeout))
      ∧ (s.env.rx = .disconnect :: more → step s = .next (transportFault (received .disconnect)))
      ∧ (s.env.rx = .chunk b bs :: more → step s = .next
          (if s.mode = .ccproxy then { received (.chunk b bs) with acc := s.acc ++ b :: bs }
           else { received (.chunk b bs) with inbuf := b :: bs })))
    ∧ (s.mode = .select → s.pending = .none → s.listing = false → s.inbuf = [] →
      (s.env.rx = [] → step s = .next s)
      ∧ (s.env.rx = .timeout :: more → step s = .next (received .timeout))
      ∧ (s.env.rx = .disconnect :: more →
          step s = .next { received .disconnect with firstChunk := true, zeroRun := 0 }))

/-- Where the host's chunks end does not matter in the bit-bang modes (R396): of two states that differ only in that, a
receive keeps them so, and a step that consumes a byte, or that makes a further turn of a search listing, issues the same
events in both and keeps them so for as long as it stays in a bit-bang mode. -/
def Obligations.ChunkBoundariesDoNotMatter : Prop :=
  ∀ s u s' : State, SameButChunks s u → s.mode.bitBang = true → step s = .next s' →
    (s.waits = true → SameButChunks s' u)
    ∧ (s.listing = true ∨ s.inbuf ≠ [] ∧ u.inbuf ≠ [] → ∃ u', step u = .next u'
        ∧ s'.trace.filter (fun e => !e.isRecv) = u'.trace.filter (fun e => !e.isRecv)
        ∧ (s'.mode.bitBang = true → SameButChunks s' u'))

/-! ### `TransportFault` and the response discipline -/

/-- The handling of a `TransportFault` (R525): what it resets, and that it keeps everything else and issues no event. The
field `listing`, which it clears with the rest of the command, is the model's own (notes/assumptions/6.md). -/
def Obligations.TransportFaultReturnsToSelect : Prop :=
  ∀ s : State, transportFault s =
    { mode := .select, zeroRun := 0, firstChunk := true, inbuf := [], pending := .none
      i2c := s.i2c, ow := s.ow
      raw := if s.mode = .raw then
          { bitOrder := .msbFirst, driveMode := .openDrain, wireCount := .two, halfBitDelayUs := 100 } else s.raw
      dw := s.dw, acc := [], listing := false, env := s.env, trace := s.trace }

/-- A failed `Send` ends every command of every mode but `SELECT` in the `TransportFault` handling: nothing is sent after
it, no input is taken, and only the sessions the command itself writes may have changed. -/
def Obligations.FailedSendReturnsToSelect : Prop :=
  ∀ (i : Instr) (s : State), i.context.mode ≠ .select → s.mode = i.context.mode → s.env.sendResult ≠ .sent →
    ∃ (t : State) (bs : List Byte) (es : List Event), exec i s = .next t
      ∧ t.trace = .send bs s.env.sendResult :: es ++ s.trace ∧ sentUnits es = []
      ∧ t.env.tx = s.env.tx.tail ∧ t.env.rx = s.env.rx ∧ t.env.port = s.env.port
      ∧ t.mode = .select ∧ t.firstChunk = true ∧ t.zeroRun = 0 ∧ t.pending = .none ∧ t.inbuf = [] ∧ t.acc = []
      ∧ t.listing = false
      ∧ t.raw = (if i.context.mode = .raw ∨ i = .bbRaw then rawDefaults else s.raw)
      ∧ (i ≠ .bbI2c → t.i2c = s.i2c)
      ∧ (i ≠ .bbOw → i ≠ .owSearchRom → i ≠ .owSearchAlarm → t.ow = s.ow)
      ∧ (i.context.mode ≠ .ccproxy → t.dw = s.dw)

/-- No command is silent: while the `Send` is accepted, every command of every mode but `SELECT` issues exactly one
`Send`, of at least one byte, before anything more of the host's input is consumed (R102, R414). -/
def Obligations.EveryCommandAnswersOnce : Prop :=
  ∀ (i : Instr) (s : State), i.context.mode ≠ .select → s.env.sendResult = .sent →
    ∃ (t : State) (es : List Event) (reply : List Byte), exec i s = .next t ∧ t.trace = es ++ s.trace
      ∧ sentUnits es = [reply] ∧ reply ≠ [] ∧ es.all (fun e => !e.isRecv) = true
      ∧ t.env.rx = s.env.rx ∧ t.env.tx = s.env.tx.tail

/-! ### The selector -/

/-- The zero count of the selector (R392, R393): any byte but 0x00 clears it, 0x00 counts, and the twentieth enters `BBIO`
with nothing but the announcement. -/
def Obligations.SelectorCountsZeros : Prop :=
  ∀ (s : State) (b : Byte),
    exec (.selOther b) s = .next { s with zeroRun := 0 }
    ∧ (s.zeroRun + 1 < 20 → exec .selZero s = .next { s with zeroRun := s.zeroRun + 1 })
    ∧ (20 ≤ s.zeroRun + 1 →
        Answers .selZero s { s with zeroRun := 0, mode := .bbio } [0x42#8, 0x42#8, 0x49#8, 0x4F#8, 0x31#8])

/-- From a count of `z` the zeros that are missing to 20, in one chunk, enter `BBIO` in as many steps, announce it once
and leave the rest of the chunk to it. That the zeros stand in `S.inbuf` in `SELECT` and take one step each is the model's
choice (notes/assumptions/5.md, 7.md): R391 and R392 take the whole chunk at once. -/
def Obligations.TwentyZerosEnterBbio : Prop :=
  ∀ (s : State) (z : Nat) (rest : List Byte), s.mode = .select → s.pending = .none → s.listing = false →
    z < 20 → s.zeroRun = z → s.inbuf = List.replicate (20 - z) 0x00#8 ++ rest → s.env.sendResult = .sent →
    Runs (20 - z) s
      (State.sending { s with mode := .bbio, zeroRun := 0, inbuf := rest }
        [0x42#8, 0x42#8, 0x49#8, 0x4F#8, 0x31#8] .sent)

/-- The two leading bytes (R391, R460): 0x0D hands control to the shell and discards the rest of the chunk; 0xF0 makes the
whole chunk the beginning of the proxy's input, and initialises the debug-wire session exactly where it is not active. -/
def Obligations.LeadingBytesSelectProxyOrShell : Prop :=
  ∀ s : State,
    exec .selShell s = .next (State.after { s with mode := .shell, inbuf := [] } [.toShell] 0)
    ∧ (s.dw.active = true →
        exec .selCcproxy s = .next { s with mode := .ccproxy, acc := 0xF0#8 :: s.inbuf, inbuf := [] })
    ∧ (s.dw.active = false →
        exec .selCcproxy s = .next
          (State.after
            { s with
              mode := .ccproxy, acc := 0xF0#8 :: s.inbuf, inbuf := []
              dw := { table := Config.dwDefaultTable, resetPin := Config.dwResetPin, clockPin := Config.dwClockPin,
                      dataPin := Config.dwDataPin, lastError := .none, active := true, inDebug := false } }
            [.setOutput Config.dwResetPin false, .set Config.dwResetPin false,
              .setOutput Config.dwClockPin false, .set Config.dwClockPin false, .setInput Config.dwDataPin] 0))

/-! ### BBIO -/

/-- The announcements that change nothing else: `BB.RESET`, `BB.VERSION` and the three version commands. -/
def Obligations.VersionCommandsAnnounce : Prop :=
  ∀ s : State,
    Answers .bbReset s s [0x42#8, 0x42#8, 0x49#8, 0x4F#8, 0x31#8]
    ∧ Answers .bbVersion s s [0x42#8, 0x42#8, 0x49#8, 0x4F#8, 0x31#8]
    ∧ Answers .i2cVersion s s [0x49#8, 0x32#8, 0x43#8, 0x31#8]
    ∧ Answers .owVersion s s [0x31#8, 0x57#8, 0x30#8, 0x31#8]
    ∧ Answers .rawVersion s s [0x52#8, 0x41#8, 0x57#8, 0x31#8]

/-- Leaving `BBIO` for another mode: a sub-mode's engine is initialised and then the mode is announced (R401-R403);
`BB.SHELL` answers 0x01, and then discards the rest of the chunk and hands control to the shell (R404). -/
def Obligations.BbioModeChanges : Prop :=
  ∀ s : State,
    Answers .bbI2c s
      (State.after { s with mode := .i2c, i2c := { scl := .clk, sda := .mosi } }
        [.setOutput .clk true, .setOutput .mosi true, .set .clk true, .set .mosi true] 0)
      [0x49#8, 0x32#8, 0x43#8, 0x31#8]
    ∧ Answers .bbOw s
      (State.after { s with mode := .ow, ow := { s.ow with pin := .mosi } } [.setOutput .mosi true, .set .mosi true] 0)
      [0x31#8, 0x57#8, 0x30#8, 0x31#8]
    ∧ Answers .bbRaw s
      (State.after
        { s with
          mode := .raw
          raw := { bitOrder := .msbFirst, driveMode := .openDrain, wireCount := .two, halfBitDelayUs := 100 } }
        [.setOutput .clk true, .set .clk false, .setOutput .cs true, .set .cs true,
          .setOutput .mosi true, .set .mosi false] 0)
      [0x52#8, 0x41#8, 0x57#8, 0x31#8]
    ∧ Answers .bbShell s s [0x01#8] (fun t => State.after { t with mode := .shell, inbuf := [] } [.toShell] 0)

/-- The self-test (R405, R406): 0x00, then any one byte closes it and is answered by 0x01. -/
def Obligations.SelfTestExchange : Prop :=
  ∀ s : State,
    Answers .bbSelftest s s [0x00#8] (fun t => { t with pending := .selfTest })
    ∧ Answers .bbSelftestLong s s [0x00#8] (fun t => { t with pending := .selfTest })
    ∧ (∀ (b : Byte) (rest : List Byte), s.mode = .bbio → s.pending = .selfTest → s.listing = false →
        s.inbuf = b :: rest →
        (s.env.sendResult = .sent →
          step s = .next (State.sending { s with inbuf := rest, pending := .none } [0x01#8] .sent))
        ∧ (s.env.sendResult ≠ .sent →
          step s = .next (transportFault
            (State.sending { s with inbuf := rest, pending := .none } [0x01#8] s.env.sendResult))))

/-- `BB.PINDIR` (R407): each pin takes the direction its bit says, the directions are read back as they were set, and the
reply is the opcode byte. -/
def Obligations.PinDirectionsAreSetAndReadBack : Prop :=
  ∀ (s : State) (a o d m c : Bool),
    let direct (p : PinId) (input : Bool) : Event := if input then .setInput p else .setOutput p false
    Answers (.bbPindir a o d m c) s
      (s.after
        [direct .aux a, direct .mosi o, direct .clk d, direct .miso m, direct .cs c,
          .getDir .aux a, .getDir .mosi o, .getDir .clk d, .getDir .miso m, .getDir .cs c] 0)
      [0b010#3 ++ BitVec.ofBool a ++ BitVec.ofBool o ++ BitVec.ofBool d ++ BitVec.ofBool m ++ BitVec.ofBool c]

/-- `BB.PINSET` (R408): each latch takes its bit, then the five lines are sampled, and the reply carries the samples; bits
6 and 5 of the opcode change nothing. -/
def Obligations.PinLevelsAreSetAndSampled : Prop :=
  ∀ (s : State) (p q a o d m c : Bool),
    Answers (.bbPinset p q a o d m c) s
      (s.after
        [.set .aux a, .set .mosi o, .set .clk d, .set .miso m, .set .cs c,
          .get .aux (s.level 0), .get .mosi (s.level 1), .get .clk (s.level 2), .get .miso (s.level 3),
          .get .cs (s.level 4)] 5)
      [0b100#3 ++ BitVec.ofBool (s.level 0) ++ BitVec.ofBool (s.level 1) ++ BitVec.ofBool (s.level 2)
        ++ BitVec.ofBool (s.level 3) ++ BitVec.ofBool (s.level 4)]

/-- An unknown opcode of a bit-bang mode is answered by 0x00 and changes nothing else (R415). -/
def Obligations.UnknownOpcodesAnswerZero : Prop :=
  ∀ (s : State) (op : Byte),
    Answers (.bbUnknown op) s s [0x00#8] ∧ Answers (.i2cUnknown op) s s [0x00#8]
      ∧ Answers (.owUnknown op) s s [0x00#8] ∧ Answers (.rawUnknown op) s s [0x00#8]

/-! ### What the sub-modes share -/

/-- Leaving a sub-mode (R411): the raw fields are reset if the mode is `RAW`, the mode becomes `BBIO` and is announced; no
pin changes, the rest of the chunk and every other session are kept. -/
def Obligations.SubModeExitReturnsToBbio : Prop :=
  ∀ s : State,
    let t : State := { s with
      mode := .bbio
      raw := if s.mode = .raw then
          { bitOrder := .msbFirst, driveMode := .openDrain, wireCount := .two, halfBitDelayUs := 100 } else s.raw }
    Answers .i2cExit s t [0x42#8, 0x42#8, 0x49#8, 0x4F#8, 0x31#8]
      ∧ Answers .owExit s t [0x42#8, 0x42#8, 0x49#8, 0x4F#8, 0x31#8]
      ∧ Answers .rawExit s t [0x42#8, 0x42#8, 0x49#8, 0x4F#8, 0x31#8]

/-- The peripheral commands (R413): AUX and CS become push-pull outputs at their levels; the power and pull-up bits
change nothing. -/
def Obligations.PeripheralCommandsDriveAuxAndCs : Prop :=
  ∀ (s : State) (w x y z : Bool),
    let t := s.after [.setOutput .aux false, .set .aux y, .setOutput .cs false, .set .cs z] 0
    Answers (.i2cPeriph w x y z) s t [0x01#8] ∧ Answers (.owPeriph w x y z) s t [0x01#8]
      ∧ Answers (.rawPeriph w x y z) s t [0x01#8]

/-- A send-bytes command answers 0x01 before any payload byte is consumed, and then waits for `n + 1` payload bytes
(R121, R412). -/
def Obligations.BulkWritesAcknowledgeFirst : Prop :=
  ∀ (s : State) (n : BitVec 4),
    Answers (.i2cWrite n) s s [0x01#8] (fun t => { t with pending := .bulk .i2c (n.toNat + 1) })
    ∧ Answers (.owWrite n) s s [0x01#8] (fun t => { t with pending := .bulk .ow (n.toNat + 1) })
    ∧ Answers (.rawWrite n) s s [0x01#8] (fun t => { t with pending := .bulk .raw (n.toNat + 1) })

/-- The whole payload of a send-bytes command (R412): each byte in turn has its engine call and its reply, in order, one
step a byte; bytes after the payload are left. -/
def Obligations.BulkWriteConsumesItsWholePayload : Prop :=
  ∀ (m : BulkMode) (payload rest : List Byte) (s : State),
    let one (t : State) (b : Byte) : State := (bulkUnit m b t).2.sending [(bulkUnit m b t).1] .sent
    s.mode = m.mode → s.listing = false → s.pending = .bulk m payload.length → 1 ≤ payload.length →
    payload.length ≤ 16 → s.inbuf = payload ++ rest → (∀ r ∈ s.env.tx.take payload.length, r = .sent) →
    Runs payload.length s (payload.foldl one { s with inbuf := rest, pending := .none })

/-! ### I2C -/

/-- `I2C.START` and `I2C.STOP` (R152, R153), with their guards, on the engine's two pins; `I2C.ACK` and `I2C.NACK` clock one
bit out, low and high (R170, R171); `I2C.SPEED` changes nothing (R174). -/
def Obligations.I2cConditionsAndAcknowledgeBits : Prop :=
  ∀ (s : State) (tier : BitVec 2),
    Answers .i2cStart s
      (s.after
        [.set s.i2c.sda true, .delay 5, .set s.i2c.scl true, .delay 5,
          .guardBegin, .set s.i2c.sda false, .delay 5, .set s.i2c.scl false, .guardEnd, .delay 5] 0) [0x01#8]
    ∧ Answers .i2cStop s
      (s.after
        [.set s.i2c.sda false, .delay 5,
          .guardBegin, .set s.i2c.scl true, .delay 5, .set s.i2c.sda true, .guardEnd, .delay 5] 0) [0x01#8]
    ∧ Answers .i2cAck s (s.after (i2cBitOut s.i2c false) 0) [0x01#8]
    ∧ Answers .i2cNack s (s.after (i2cBitOut s.i2c true) 0) [0x01#8]
    ∧ Answers (.i2cSpeed tier) s s [0x01#8]

/-- `I2C.READ` shifts eight samples in, the most significant bit first, and answers the byte (R156, R169). -/
def Obligations.I2cReadShiftsMsbFirst : Prop :=
  ∀ s : State,
    Answers .i2cRead s
      (s.after ((List.range 8).flatMap fun k => i2cBitIn s.i2c (s.level k)) 8)
      [byteOf fun j => s.level (7 - j)]

/-- One payload byte of `I2C.WRITE` (R157, R172): its bits, the most significant first, then the acknowledge bit, which is
the reply, 0x01 for a nack; a nack does not stop the command. -/
def Obligations.I2cPayloadByteIsWrittenAndAnswered : Prop :=
  ∀ (s : State) (k : Nat) (b : Byte) (rest : List Byte), s.mode = .i2c → s.listing = false →
    s.pending = .bulk .i2c (k + 1) → k < 16 → s.inbuf = b :: rest →
    let t := State.after { s with inbuf := rest }
      ((msbFirst.flatMap fun j => i2cBitOut s.i2c (b.getLsbD j)) ++ i2cBitIn s.i2c (s.level 0)) 1
    let answer : List Byte := [if s.level 0 then 0x01#8 else 0x00#8]
    (s.env.sendResult = .sent →
      step s = .next { t.sending answer .sent with pending := if k = 0 then .none else .bulk .i2c k })
    ∧ (s.env.sendResult ≠ .sent → step s = .next (transportFault (t.sending answer s.env.sendResult)))

/-- The pull-up check of the engine port (R158). -/
def Obligations.PullupsCheckSamplesBothLines : Prop :=
  ∀ s : State, i2cPullupsOk s =
    (s.level 0 && s.level 1,
      s.after
        [.setOutput s.i2c.scl true, .setOutput s.i2c.sda true, .set s.i2c.scl true, .set s.i2c.sda true, .delay 5,
          .get s.i2c.scl (s.level 0), .get s.i2c.sda (s.level 1)] 2)

/-! ### 1-Wire -/

/-- `OW.RESET` (R204, R232): the reset slot with its recovery wait; the answer is 0x01 whether or not a device answered. -/
def Obligations.OwResetCommand : Prop :=
  ∀ s : State, Answers .owReset s (s.after (owResetSlot s.ow.pin (s.level 0) ++ [.delay 410]) 1) [0x01#8]

/-- `OW.READ` shifts eight samples in, the least significant bit first, and answers the byte (R206, R233). -/
def Obligations.OwReadShiftsLsbFirst : Prop :=
  ∀ s : State,
    Answers .owRead s (s.after ((List.range 8).flatMap fun k => owBitIn s.ow.pin (s.level k)) 8)
      [byteOf fun j => s.level j]

/-- One payload byte of `OW.WRITE` (R205, R236): its bits, the least significant first, and the byte echoed. -/
def Obligations.OwPayloadByteIsEchoed : Prop :=
  ∀ (s : State) (k : Nat) (b : Byte) (rest : List Byte), s.mode = .ow → s.listing = false →
    s.pending = .bulk .ow (k + 1) → k < 16 → s.inbuf = b :: rest →
    let t := State.after { s with inbuf := rest } (lsbFirst.flatMap fun j => owBitOut s.ow.pin (b.getLsbD j)) 0
    (s.env.sendResult = .sent →
      step s = .next { t.sending [b] .sent with pending := if k = 0 then .none else .bulk .ow k })
    ∧ (s.env.sendResult ≠ .sent → step s = .next (transportFault (t.sending [b] s.env.sendResult)))

/-- A search on an empty bus (R210, R211, R220): the search state is initialised, the reset finds no presence, and the
answer is the end record alone. -/
def Obligations.SearchOnEmptyBusSendsTheSentinel : Prop :=
  ∀ (s : State) (i : Instr) (cmd : SearchCommand),
    (i = .owSearchRom ∧ cmd = .romSearch ∨ i = .owSearchAlarm ∧ cmd = .alarmSearch) → s.level 0 = true →
    Answers i s
      (State.after
        { s with
          listing := false
          ow := { pin := s.ow.pin, lastDeviceFlag := false, lastDiscrepancy := 64, searchCommand := cmd, rom := 0#64 } }
        (owResetSlot s.ow.pin true) 1)
      (List.replicate 8 0xFF#8)

/-- A search on a bus of devices (R210-R213, R220): the first record is the id that comes first in the search's order,
and the listing goes on. -/
def Obligations.SearchCommandSendsTheFirstDevice : Prop :=
  ∀ (s : State) (i : Instr) (cmd : SearchCommand) (code : Byte) (x : BitVec 64) (later : List (BitVec 64)),
    (i = .owSearchRom ∧ cmd = .romSearch ∧ code = 0xF0#8 ∨
      i = .owSearchAlarm ∧ cmd = .alarmSearch ∧ code = 0xEC#8) →
    (x :: later).Pairwise SearchedBefore → BusFollows (x :: later) x s →
    Answers i s
      (State.after
        { s with ow := { pin := s.ow.pin, lastDeviceFlag := later.isEmpty, lastDiscrepancy := branchAfter x later.head?,
                         searchCommand := cmd, rom := x } }
        (searchEvents s code x) 129)
      (romBytes x) (fun t => { t with listing := true })

/-- A further turn of a search listing (R214, R220): an exhausted search sends the end record with no bus activity; else
the turn is a search pass, and it sends the id found and goes on, or sends the end record; and where that `Send` fails,
`TransportFault` is handled. The field `listing` is the model's own (notes/assumptions/6.md). -/
def Obligations.SearchListingTurn : Prop :=
  ∀ s : State, s.mode = .ow → s.pending = .none → s.listing = true →
    let sentinel : List Byte := List.replicate 8 0xFF#8
    let t := (owFindNext s).2
    (s.ow.lastDeviceFlag = true → owFindNext s = (false, s))
    ∧ ((owFindNext s).1 = true →
      (s.env.sendResult = .sent → step s = .next (t.sending (romBytes t.ow.rom) .sent))
      ∧ (s.env.sendResult ≠ .sent → step s = .next (transportFault (t.sending (romBytes t.ow.rom) s.env.sendResult))))
    ∧ ((owFindNext s).1 = false →
      (s.env.sendResult = .sent → step s = .next { t.sending sentinel .sent with listing := false })
      ∧ (s.env.sendResult ≠ .sent → step s = .next (transportFault (t.sending sentinel s.env.sendResult))))

/-- The enumerator walks a bus of devices in order (R210-R214, R217): where the last pass found `x` and recorded where the
id after it branches off, the next pass finds that id, records where the one after it branches off, and sets the flag
exactly at the last; after that a pass finds nothing, with no bus activity. -/
def Obligations.SearchWalksTheDevicesInOrder : Prop :=
  ∀ (earlier later : List (BitVec 64)) (x y : BitVec 64) (s : State),
    (earlier ++ x :: y :: later).Pairwise SearchedBefore → s.ow.rom = x → s.ow.lastDiscrepancy = firstDifference x y →
    s.ow.lastDeviceFlag = false → BusFollows (earlier ++ x :: y :: later) y s →
    owFindNext s =
      (true,
        State.after
          { s with ow := { s.ow with rom := y, lastDiscrepancy := branchAfter y later.head?, lastDeviceFlag := later.isEmpty } }
          (searchEvents s s.ow.searchCommand.byte y) 129)
    ∧ (later = [] → owFindNext (owFindNext s).2 = (false, (owFindNext s).2))

/-- A pass that is aborted at position `k`, because no device answered there, keeps the discrepancy, the flag, the pin, the
command and every bit of the id from `k` on (R212, R215). -/
def Obligations.AbortedSearchPassKeepsTheSearchState : Prop :=
  ∀ (s : State) (k : Nat), s.ow.lastDeviceFlag = false → s.level 0 = false → k < 64 →
    (∀ j < k, ¬(s.level (1 + 2 * j) = true ∧ s.level (2 + 2 * j) = true)) →
    s.level (1 + 2 * k) = true → s.level (2 + 2 * k) = true →
    (searchPass s).1 = false
      ∧ (searchPass s).2.ow = { s.ow with rom := (searchPass s).2.ow.rom }
      ∧ (∀ j, k ≤ j → romBit (searchPass s).2.ow.rom j = romBit s.ow.rom j)
      ∧ (searchPass s).2.env.drawn = s.env.drawn + 3 + 2 * k

/-- The CRC-8 (R208, R209): it takes a sequence a byte at a time, it is linear, and it has these values on the bytes with
one bit, so it is fixed on every sequence; and the CRC of any sequence followed by its own CRC is 0. -/
def Obligations.CrcSelfCheck : Prop :=
  (∀ d : List Byte, crc8 (d ++ [crc8 d]) = 0x00#8)
    ∧ (∀ (d : List Byte) (b : Byte), crc8 (d ++ [b]) = crc8 [crc8 d ^^^ b])
    ∧ (∀ a b : Byte, crc8 [a ^^^ b] = crc8 [a] ^^^ crc8 [b])
    ∧ crc8 [] = 0x00#8 ∧ crc8 [0xFF#8] = 0x35#8
    ∧ crc8 [0x01#8] = 0x5E#8 ∧ crc8 [0x02#8] = 0xBC#8 ∧ crc8 [0x04#8] = 0x61#8 ∧ crc8 [0x08#8] = 0xC2#8
    ∧ crc8 [0x10#8] = 0x9D#8 ∧ crc8 [0x20#8] = 0x23#8 ∧ crc8 [0x40#8] = 0x46#8 ∧ crc8 [0x80#8] = 0x8C#8

/-! ### Raw-wire -/

/-- The raw start and stop conditions, unguarded (R264, R265), the clock tick (R267), and the commands that set one line
(R266, R273). -/
def Obligations.RawConditionsAndLines : Prop :=
  ∀ s : State,
    let h := s.raw.halfBitDelayUs
    Answers .rawStart s
      (s.after
        (rawDrive s.raw true ++ [.delay h, .set .clk true, .delay h] ++ rawDrive s.raw false
          ++ [.delay h, .set .clk false, .delay h]) 0) [0x01#8]
    ∧ Answers .rawStop s
      (s.after
        (rawDrive s.raw false ++ [.delay h, .set .clk true, .delay h] ++ rawDrive s.raw true ++ [.delay h]) 0) [0x01#8]
    ∧ Answers .rawTick s (s.after [.set .clk true, .delay h, .set .clk false, .delay h] 0) [0x01#8]
    ∧ Answers .rawCsLow s (s.after [.set .cs false] 0) [0x01#8]
    ∧ Answers .rawCsHigh s (s.after [.set .cs true] 0) [0x01#8]
    ∧ Answers .rawClkLow s (s.after [.set .clk false] 0) [0x01#8]
    ∧ Answers .rawClkHigh s (s.after [.set .clk true] 0) [0x01#8]
    ∧ Answers .rawDatLow s (s.after (rawDrive s.raw false) 0) [0x01#8]
    ∧ Answers .rawDatHigh s (s.after (rawDrive s.raw true) 0) [0x01#8]

/-- `RAW.READ_BYTE` shifts eight samples in, in the configured bit order, and answers the byte (R269, R270); `RAW.READ_BIT`
and `RAW.PEEK` answer one sample of the input line, as 0x00 or 0x01 (R263, R269, R272). -/
def Obligations.RawReadsInConfiguredOrder : Prop :=
  ∀ s : State,
    let answer : List Byte := [if s.level 0 then 0x01#8 else 0x00#8]
    let line : PinId := match s.raw.wireCount with
      | .two => .mosi
      | .three => .miso
    Answers .rawReadByte s
      (s.after ((List.range 8).flatMap fun k => rawBitIn s.raw (s.level k)) 8)
      [byteOf fun j => s.level (match s.raw.bitOrder with
        | .msbFirst => 7 - j
        | .lsbFirst => j)]
    ∧ Answers .rawReadBit s (s.after (rawBitIn s.raw (s.level 0)) 1) answer
    ∧ Answers .rawPeek s (s.after [.get line (s.level 0)] 1) answer

/-- One payload byte of `RAW.WRITE` (R268, R271): in 3-wire mode each bit is written and one sampled, and the answer is
the byte sampled, in the same order; in 2-wire mode nothing is sampled and the answer is 0x01. -/
def Obligations.RawPayloadByteIsExchanged : Prop :=
  ∀ (s : State) (k : Nat) (b : Byte) (rest : List Byte), s.mode = .raw → s.listing = false →
    s.pending = .bulk .raw (k + 1) → k < 16 → s.inbuf = b :: rest →
    let t (draws : Nat) : State := State.after { s with inbuf := rest }
      ((rawOrder s.raw).zipIdx.flatMap fun jk => rawBitOut s.raw (b.getLsbD jk.1) (s.level jk.2)) draws
    let answered (draws : Nat) (answer : Byte) : Prop :=
      (s.env.sendResult = .sent →
        step s = .next
          { (t draws).sending [answer] .sent with pending := if k = 0 then .none else .bulk .raw k })
      ∧ (s.env.sendResult ≠ .sent →
        step s = .next (transportFault ((t draws).sending [answer] s.env.sendResult)))
    (s.raw.wireCount = .two → answered 0 0x01#8)
    ∧ (s.raw.wireCount = .three → answered 8 (byteOf fun j => s.level (match s.raw.bitOrder with
        | .msbFirst => 7 - j
        | .lsbFirst => j)))

/-- `RAW.SPEED` sets one of the four delays with no pin event (R122, R296); `RAW.CONFIG` sets the three fields, keeps the
speed and re-drives the idle levels (R124, R261, R297), and its lowest bit changes nothing. -/
def Obligations.RawSpeedAndConfig : Prop :=
  ∀ (s : State) (w x y z : Bool),
    Answers (.rawSpeed 0) s { s with raw := { s.raw with halfBitDelayUs := 100 } } [0x01#8]
    ∧ Answers (.rawSpeed 1) s { s with raw := { s.raw with halfBitDelayUs := 10 } } [0x01#8]
    ∧ Answers (.rawSpeed 2) s { s with raw := { s.raw with halfBitDelayUs := 5 } } [0x01#8]
    ∧ Answers (.rawSpeed 3) s { s with raw := { s.raw with halfBitDelayUs := 1 } } [0x01#8]
    ∧ Answers (.rawConfig w x y z) s
      (State.after
        { s with
          raw := { bitOrder := if y then .lsbFirst else .msbFirst, driveMode := if w then .pushPull else .openDrain,
                   wireCount := if x then .three else .two, halfBitDelayUs := s.raw.halfBitDelayUs } }
        ([.setOutput .clk (!w), .set .clk false, .setOutput .cs (!w), .set .cs true, .setOutput .mosi (!w),
          .set .mosi false] ++ if x then [.setInput .miso] else []) 0)
      [0x01#8]

/-! ### The debug proxy -/

/-- The proxy commands that do not touch the debug-wire engine: ping and version never report an error; burst write and
unknown opcodes answer error 0xFF and latch nothing. -/
def Obligations.ProxyCommandsWithoutTheEngine : Prop :=
  ∀ (s : State) (op a0 a1 a2 : Byte),
    Answers (.ccPing a0 a1 a2) s s [0x01#8, 0x00#8, 0x00#8]
    ∧ Answers (.ccInstrVer a0 a1 a2) s s [0x01#8, s.dw.table[0], 0x00#8]
    ∧ Answers (.ccBurstWrite a0 a1 a2) s s [0x02#8, 0xFF#8, 0x00#8]
    ∧ Answers (.ccUnknown op a0 a1 a2) s s [0x02#8, 0xFF#8, 0x00#8]

/-- `CC.ENTER` (R323, R466): with an active session the target is pulsed into debug mode and a latched error is cleared;
without one it only latches `NOT_ACTIVE` and reports it. -/
def Obligations.ProxyEnterStartsDebugMode : Prop :=
  ∀ (s : State) (a0 a1 a2 : Byte),
    let pulse := guardedLevel s.dw.clockPin true Config.dwEnterPulseUs
      ++ guardedLevel s.dw.clockPin false Config.dwEnterPulseUs
    (s.dw.active = true →
      Answers (.ccEnter a0 a1 a2) s
        (State.after { s with dw := { s.dw with inDebug := true, lastError := .none } }
          (guardedLevel s.dw.resetPin false Config.dwResetLowUs ++ pulse ++ pulse
            ++ guardedLevel s.dw.resetPin true Config.dwResetReleaseUs) 0)
        [0x01#8, 0x00#8, 0x00#8])
    ∧ (s.dw.active = false →
      Answers (.ccEnter a0 a1 a2) s { s with dw := { s.dw with lastError := .notActive } } [0x02#8, 0x01#8, 0x00#8])

/-- Every debug command outside debug mode fails its check (R324): it emits no pin event, latches `NOT_ACTIVE` before
`NOT_DEBUGGING`, and reports it; in debug mode the check passes and changes nothing, an earlier error included. -/
def Obligations.DebugCommandsFailTheirCheck : Prop :=
  ∀ (i : Instr) (s : State) (a0 a1 a2 : Byte),
    ((byteCommand i).isSome = true ∨ (wordCommand i).isSome = true →
      (s.dw.active = false →
        Answers i s { s with dw := { s.dw with lastError := .notActive } } [0x02#8, 0x01#8, 0x00#8])
      ∧ (s.dw.active = true → s.dw.inDebug = false →
        Answers i s { s with dw := { s.dw with lastError := .notDebugging } } [0x02#8, 0x02#8, 0x00#8]))
    ∧ (s.dw.active = false →
        Answers (.ccExit a0 a1 a2) s { s with dw := { s.dw with lastError := .notActive, inDebug := false } }
          [0x02#8, 0x01#8, 0x00#8])
    ∧ (s.dw.active = true → s.dw.inDebug = false →
        Answers (.ccExit a0 a1 a2) s { s with dw := { s.dw with lastError := .notDebugging } }
          [0x02#8, 0x02#8, 0x00#8])
    ∧ (s.dw.active = true → s.dw.inDebug = true → dwCheck s = (true, s))

/-- A debug command with a one-byte result, in debug mode (R328): the opcode of its table slot as the table stands now and
its arguments go out; where the target is ready after `k` high samples, the reply byte comes in and the answer is that byte
or the latched error; where it is not ready in 255, no reply byte is read, `NOT_WIRED` is latched and reported, and debug
mode is left (R326). -/
def Obligations.DebugCommandsAnswerTheTargetsByte : Prop :=
  ∀ (i : Instr) (slot : Fin 16) (args : List Byte) (s : State), byteCommand i = some (slot, args) →
    s.dw.active = true → s.dw.inDebug = true →
    let request := dwSent s.dw (s.dw.table[slot] :: args)
    (∀ k, s.readyAfter k →
      Answers i s
        (s.after
          (request ++ dwReady s.dw k ++ (List.range 8).flatMap fun j => dwBitIn s.dw (s.level (k + 1 + j))) (k + 9))
        (dwReply s.dw (byteOf fun j => s.level (k + 8 - j)) 0x00#8))
    ∧ (s.neverReady →
      Answers i s (State.after { s with dw := dwUnwired s.dw } (request ++ dwGivesUp s.dw) 255)
        [0x02#8, 0x03#8, 0x00#8])

/-- A debug command with a two-byte result (R338, R339): the high byte comes in first, the low byte is answered first
(R90, R91); where the target is not ready in 255 samples, as with a one-byte result. -/
def Obligations.DebugCommandsAnswerTheTargetsWord : Prop :=
  ∀ (i : Instr) (slot : Fin 16) (s : State), wordCommand i = some slot →
    s.dw.active = true → s.dw.inDebug = true →
    let request := dwSent s.dw [s.dw.table[slot]]
    (∀ k, s.readyAfter k →
      Answers i s
        (s.after
          (request ++ dwReady s.dw k ++ (List.range 16).flatMap fun j => dwBitIn s.dw (s.level (k + 1 + j))) (k + 17))
        (dwReply s.dw (byteOf fun j => s.level (k + 16 - j)) (byteOf fun j => s.level (k + 8 - j))))
    ∧ (s.neverReady →
      Answers i s (State.after { s with dw := dwUnwired s.dw } (request ++ dwGivesUp s.dw) 255)
        [0x02#8, 0x03#8, 0x00#8])

/-- `CC.EXIT` in debug mode (R341, R467): a resume, and out of debug mode, whether the target is ready after `k` high samples
or not in 255; the session stays active and the block stays in the proxy. -/
def Obligations.ProxyExitResumesAndLeavesDebugMode : Prop :=
  ∀ (s : State) (a0 a1 a2 : Byte), s.dw.active = true → s.dw.inDebug = true →
    let request := dwSent s.dw [s.dw.table[2]]
    (∀ k, s.readyAfter k →
      Answers (.ccExit a0 a1 a2) s
        (State.after { s with dw := { s.dw with inDebug := false } }
          (request ++ dwReady s.dw k ++ (List.range 8).flatMap fun j => dwBitIn s.dw (s.level (k + 1 + j))) (k + 9))
        (dwReply s.dw (byteOf fun j => s.level (k + 8 - j)) 0x00#8))
    ∧ (s.neverReady →
      Answers (.ccExit a0 a1 a2) s (State.after { s with dw := dwUnwired s.dw } (request ++ dwGivesUp s.dw) 255)
        [0x02#8, 0x03#8, 0x00#8])

/-- The ready wait (R326): the first low sample after `k` high ones, `k` at most 254, is ready after `k` rounds, with a
delay if there was any waiting; 255 high samples latch `NOT_WIRED` and leave debug mode, after 255 rounds. -/
def Obligations.ReadyWaitIsBoundedBy255Rounds : Prop :=
  ∀ s : State,
    (∀ k, s.readyAfter k → dwSwitchRead s = (true, s.after ([.setInput s.dw.dataPin] ++ dwReady s.dw k) (k + 1)))
    ∧ (s.neverReady →
      dwSwitchRead s =
        (false, State.after { s with dw := dwUnwired s.dw } ([.setInput s.dw.dataPin] ++ dwGivesUp s.dw) 255))

/-- A table patch (R342), with a byte sequence of at least `length` bytes: in range it writes the slots it covers with the
first `length` bytes and no other slot, beyond slot 15 it writes nothing; it checks no session, issues no event, and answers
slot 0 as it then stands. -/
def Obligations.TablePatchIsBoundsChecked : Prop :=
  ∀ (s : State) (bytes : List Byte) (offset length : Nat), length ≤ bytes.length →
    let r := dwUpdateTable bytes offset length s
    r.1 = r.2.dw.table[0]
    ∧ (16 < offset + length → r.2 = s)
    ∧ (offset + length ≤ 16 →
      ∃ table : Vector Byte 16, r.2 = { s with dw := { s.dw with table := table } }
        ∧ ∀ i : Fin 16, table[i] =
            if offset ≤ i.val ∧ i.val < offset + length then bytes.getD (i.val - offset) 0x00#8 else s.dw.table[i])

/-- A table upload (R482): `CC.INSTR_UPD` answers READY and waits. Each byte at hand, which is not decoded as part of a frame,
is patched into its slot in a step of its own (notes/assumptions/5.md); after the last the answer carries the new slot 0,
and where that `Send` fails `TransportFault` is handled with the table kept. A disconnect in between keeps the slots already
received. Sixteen bytes in a row become the table. -/
def Obligations.TableUploadReplacesTheTable : Prop :=
  ∀ (s : State) (a0 a1 a2 : Byte),
    Answers (.ccInstrUpd a0 a1 a2) s s [0x03#8, 0x00#8, 0x00#8] (fun t => { t with pending := .upload 0 })
    ∧ (s.mode = .ccproxy → s.listing = false →
      (∀ (off : Fin 16) (b : Byte) (rest : List Byte), s.pending = .upload off → s.acc = b :: rest →
        let t : State := { s with acc := rest, dw := { s.dw with table := s.dw.table.set off.val b } }
        let reply : List Byte := [0x01#8, t.dw.table[0], 0x00#8]
        (∀ h : off.val + 1 < 16, step s = .next { t with pending := .upload ⟨off.val + 1, h⟩ })
        ∧ (off = 15 → s.env.sendResult = .sent →
          step s = .next (State.sending { t with pending := .none } reply .sent))
        ∧ (off = 15 → s.env.sendResult ≠ .sent →
          step s = .next (transportFault (State.sending { t with pending := .none } reply s.env.sendResult))))
      ∧ (∀ (off : Fin 16) (more : List RecvResult), s.pending = .upload off → s.acc = [] →
        s.env.rx = .disconnect :: more →
        ∃ t, step s = .next t ∧ t.mode = .select ∧ t.pending = .none ∧ t.dw = s.dw)
      ∧ (∀ (table : Vector Byte 16) (rest : List Byte), s.pending = .upload 0 → s.acc = table.toList ++ rest →
        s.env.sendResult = .sent →
        Runs 16 s
          (State.sending { s with acc := rest, pending := .none, dw := { s.dw with table := table } }
            [0x01#8, table[0], 0x00#8] .sent)))

/-- A debug-wire error latches (R344, R463, R579): while one is latched every debug command answers an error frame with
the latched code and leaves an error latched. -/
def Obligations.DebugErrorsLatch : Prop :=
  ∀ (i : Instr) (s : State),
    ((byteCommand i).isSome = true ∨ (wordCommand i).isSome = true ∨ ∃ a0 a1 a2, i = .ccExit a0 a1 a2) →
    s.dw.lastError ≠ .none →
    ∃ (t : State) (es : List Event), exec i s = .next t ∧ t.dw.lastError ≠ .none
      ∧ t.trace = .send (dwReply t.dw 0x00#8 0x00#8) s.env.sendResult :: es
      ∧ t.dw.active = s.dw.active ∧ t.dw.table = s.dw.table

/-! ### The shell -/

/-- `SHELL` mode (R416): the block waits for the shell; an engine-port call runs its operation to completion between its
two events, with no `Recv` and no `Send`; the shell's exit enters `SELECT` with no input kept. -/
def Obligations.ShellServesTheEnginePort : Prop :=
  ∀ (s : State) (more : List ShellInput), s.mode = .shell → s.pending = .none → s.listing = false →
    (s.env.port = [] → step s = .next s)
    ∧ (s.env.port = .exit :: more → step s = .next
        (State.after
          { s with
            mode := .select, firstChunk := true, zeroRun := 0, inbuf := [], acc := []
            env := { s.env with port := more } }
          [.shellExit] 0))
    ∧ (∀ c, s.env.port = .call c :: more →
        let t := State.after { s with env := { s.env with port := more } } [.engineCall c] 0
        step s = .next ((engineOp c t).2.after [.engineReturn (engineOp c t).1] 0)
          ∧ (engineOp c t).2.mode = .shell ∧ (engineOp c t).2.env.rx = s.env.rx
          ∧ (engineOp c t).2.env.tx = s.env.tx
          ∧ ∃ es, (engineOp c t).2.trace = es ++ t.trace ∧ es.all (fun e => !e.isSend && !e.isRecv) = true)

/-! ### The whole machine -/

/-- The state after reset (R60, R560): the table of R60; no event has been issued, no pin configured, nothing drawn or
received. The parameters without a value stand by name; the three debug-wire pins are distinct (R15). The values of
`listing`, `env` and `trace` are the model's choice (notes/assumptions/19.md). -/
def Obligations.ResetLeavesTheStatedValues : Prop :=
  State.reset =
    { mode := .select, zeroRun := 0, firstChunk := true, inbuf := [], pending := .none
      i2c := { scl := .clk, sda := .mosi }
      ow := { pin := .mosi, lastDeviceFlag := false, lastDiscrepancy := 64, searchCommand := .romSearch, rom := 0#64 }
      raw := { bitOrder := .msbFirst, driveMode := .openDrain, wireCount := .two, halfBitDelayUs := 100 }
      dw := { table := Config.dwDefaultTable, resetPin := Config.dwResetPin, clockPin := Config.dwClockPin,
              dataPin := Config.dwDataPin, lastError := .none, active := false, inDebug := false }
      acc := [], listing := false
      env := { pins := [], levels := [], drawn := 0, rx := [], tx := [], port := [] }, trace := [] }
    ∧ Config.dwResetPin ≠ Config.dwClockPin ∧ Config.dwResetPin ≠ Config.dwDataPin
    ∧ Config.dwClockPin ≠ Config.dwDataPin

/-- The state after reset meets the invariant, its pins are in canonical form and no guard is open. -/
def Obligations.ResetMeetsTheInvariant : Prop :=
  State.reset.Inv ∧ pinsCanonical State.reset.env.pins ∧ guardOpen State.reset.trace = some false
    ∧ State.reset.Bounded

/-- From every state that meets the invariant a step answers a next state, which meets it again: the block never stops
(R131, R541), and the relations between its fields are kept (R32, R34, R35, R40, R46, R47, R53, R55). -/
def Obligations.StepKeepsTheInvariant : Prop :=
  ∀ s : State, s.Inv → ∃ t, step s = .next t ∧ t.Inv

/-- Every step keeps the guard discipline (R575): a guard holds only `Set` and `Delay`, guards never nest, and every guard
is closed when the step ends. -/
def Obligations.StepKeepsTheGuardDiscipline : Prop :=
  ∀ s t : State, guardOpen s.trace = some false → step s = .next t → guardOpen t.trace = some false

/-- Every step keeps the buffers within their bounds (R34, R55, R86) while the host's chunks are, and the tracked pins in
their one canonical form. -/
def Obligations.StepKeepsBuffersAndPinsInForm : Prop :=
  ∀ s t : State, step s = .next t →
    (s.Bounded → t.Bounded) ∧ (pinsCanonical s.env.pins → pinsCanonical t.env.pins)

/-- A step only adds events to the trace (R81), and the environment follows from them (R59): the pins are what the events
make them, each `Send` and each `Recv` has taken one result, and at most one answer was drawn for each sample. The trace as
a list and the scripts of draws, sends and receives with their counter are the model's own (notes/assumptions/1.md, 2.md,
4.md, 8.md). -/
def Obligations.TraceAccountsForTheEnvironment : Prop :=
  ∀ s t : State, step s = .next t → ∃ es : List Event,
    t.trace = es.reverse ++ s.trace
      ∧ t.env.pins = pinEffects s.env.pins es
      ∧ t.env.tx = s.env.tx.drop (es.countP Event.isSend)
      ∧ t.env.rx = s.env.rx.drop (es.countP Event.isRecv)
      ∧ s.env.drawn ≤ t.env.drawn ∧ t.env.drawn ≤ s.env.drawn + es.countP Event.isSample
      ∧ t.env.levels = s.env.levels

/-- The modes change only as R533 says. -/
def Obligations.ModesChangeOnlyAsTheTableSays : Prop :=
  ∀ s t : State, step s = .next t → s.mode.mayBecome t.mode = true

/-- The debug-wire session is one for the whole run (R51, R54): no step makes an active session inactive, and outside the
proxy and the shell only the entry to the proxy touches it, and only where it is not active. -/
def Obligations.DebugWireSessionSurvivesModeChanges : Prop :=
  ∀ s t : State, step s = .next t →
    (s.dw.active = true → t.dw.active = true)
    ∧ (s.mode ≠ .ccproxy → s.mode ≠ .shell →
        t.dw = s.dw ∨ (t.mode = .ccproxy ∧ s.dw.active = false ∧ t.dw.active = true))
end

