-- ==== Sys2Proof/Laws/State.lean ====
section
/-! SUPPORT. One lemma for each field of `State` and each update of the state, true by definition: what an update writes and
what it leaves alone, so that no later proof unfolds a record update. -/

namespace Sys2Proof.Machine

/-! ### The debug-wire pins -/

/-- The three debug-wire pins are distinct (R15). -/
theorem dwPins_distinct :
    Config.dwResetPin ≠ Config.dwClockPin ∧ Config.dwResetPin ≠ Config.dwDataPin
      ∧ Config.dwClockPin ≠ Config.dwDataPin := by
  simp [Config.dwResetPin, Config.dwClockPin, Config.dwDataPin, Config.dwPinChoice.injective.eq_iff]

variable (s : State)

/-! ### `State.withMode` -/

@[simp] theorem State.withMode_mode (x : Mode) : (s.withMode x).mode = x := rfl
@[simp] theorem State.withMode_zeroRun (x : Mode) : (s.withMode x).zeroRun = s.zeroRun := rfl
@[simp] theorem State.withMode_firstChunk (x : Mode) : (s.withMode x).firstChunk = s.firstChunk := rfl
@[simp] theorem State.withMode_inbuf (x : Mode) : (s.withMode x).inbuf = s.inbuf := rfl
@[simp] theorem State.withMode_pending (x : Mode) : (s.withMode x).pending = s.pending := rfl
@[simp] theorem State.withMode_i2c (x : Mode) : (s.withMode x).i2c = s.i2c := rfl
@[simp] theorem State.withMode_ow (x : Mode) : (s.withMode x).ow = s.ow := rfl
@[simp] theorem State.withMode_raw (x : Mode) : (s.withMode x).raw = s.raw := rfl
@[simp] theorem State.withMode_dw (x : Mode) : (s.withMode x).dw = s.dw := rfl
@[simp] theorem State.withMode_acc (x : Mode) : (s.withMode x).acc = s.acc := rfl
@[simp] theorem State.withMode_listing (x : Mode) : (s.withMode x).listing = s.listing := rfl
@[simp] theorem State.withMode_env (x : Mode) : (s.withMode x).env = s.env := rfl
@[simp] theorem State.withMode_trace (x : Mode) : (s.withMode x).trace = s.trace := rfl
@[simp] theorem State.withMode_same (x y : Mode) : (s.withMode x).withMode y = s.withMode y := rfl

/-! ### `State.withZeroRun` -/

@[simp] theorem State.withZeroRun_mode (x : Nat) : (s.withZeroRun x).mode = s.mode := rfl
@[simp] theorem State.withZeroRun_zeroRun (x : Nat) : (s.withZeroRun x).zeroRun = x := rfl
@[simp] theorem State.withZeroRun_firstChunk (x : Nat) : (s.withZeroRun x).firstChunk = s.firstChunk := rfl
@[simp] theorem State.withZeroRun_inbuf (x : Nat) : (s.withZeroRun x).inbuf = s.inbuf := rfl
@[simp] theorem State.withZeroRun_pending (x : Nat) : (s.withZeroRun x).pending = s.pending := rfl
@[simp] theorem State.withZeroRun_i2c (x : Nat) : (s.withZeroRun x).i2c = s.i2c := rfl
@[simp] theorem State.withZeroRun_ow (x : Nat) : (s.withZeroRun x).ow = s.ow := rfl
@[simp] theorem State.withZeroRun_raw (x : Nat) : (s.withZeroRun x).raw = s.raw := rfl
@[simp] theorem State.withZeroRun_dw (x : Nat) : (s.withZeroRun x).dw = s.dw := rfl
@[simp] theorem State.withZeroRun_acc (x : Nat) : (s.withZeroRun x).acc = s.acc := rfl
@[simp] theorem State.withZeroRun_listing (x : Nat) : (s.withZeroRun x).listing = s.listing := rfl
@[simp] theorem State.withZeroRun_env (x : Nat) : (s.withZeroRun x).env = s.env := rfl
@[simp] theorem State.withZeroRun_trace (x : Nat) : (s.withZeroRun x).trace = s.trace := rfl
@[simp] theorem State.withZeroRun_same (x y : Nat) : (s.withZeroRun x).withZeroRun y = s.withZeroRun y := rfl

/-! ### `State.withFirstChunk` -/

@[simp] theorem State.withFirstChunk_mode (x : Bool) : (s.withFirstChunk x).mode = s.mode := rfl
@[simp] theorem State.withFirstChunk_zeroRun (x : Bool) : (s.withFirstChunk x).zeroRun = s.zeroRun := rfl
@[simp] theorem State.withFirstChunk_firstChunk (x : Bool) : (s.withFirstChunk x).firstChunk = x := rfl
@[simp] theorem State.withFirstChunk_inbuf (x : Bool) : (s.withFirstChunk x).inbuf = s.inbuf := rfl
@[simp] theorem State.withFirstChunk_pending (x : Bool) : (s.withFirstChunk x).pending = s.pending := rfl
@[simp] theorem State.withFirstChunk_i2c (x : Bool) : (s.withFirstChunk x).i2c = s.i2c := rfl
@[simp] theorem State.withFirstChunk_ow (x : Bool) : (s.withFirstChunk x).ow = s.ow := rfl
@[simp] theorem State.withFirstChunk_raw (x : Bool) : (s.withFirstChunk x).raw = s.raw := rfl
@[simp] theorem State.withFirstChunk_dw (x : Bool) : (s.withFirstChunk x).dw = s.dw := rfl
@[simp] theorem State.withFirstChunk_acc (x : Bool) : (s.withFirstChunk x).acc = s.acc := rfl
@[simp] theorem State.withFirstChunk_listing (x : Bool) : (s.withFirstChunk x).listing = s.listing := rfl
@[simp] theorem State.withFirstChunk_env (x : Bool) : (s.withFirstChunk x).env = s.env := rfl
@[simp] theorem State.withFirstChunk_trace (x : Bool) : (s.withFirstChunk x).trace = s.trace := rfl
@[simp] theorem State.withFirstChunk_same (x y : Bool) : (s.withFirstChunk x).withFirstChunk y = s.withFirstChunk y := rfl

/-! ### `State.withInbuf` -/

@[simp] theorem State.withInbuf_mode (x : List Byte) : (s.withInbuf x).mode = s.mode := rfl
@[simp] theorem State.withInbuf_zeroRun (x : List Byte) : (s.withInbuf x).zeroRun = s.zeroRun := rfl
@[simp] theorem State.withInbuf_firstChunk (x : List Byte) : (s.withInbuf x).firstChunk = s.firstChunk := rfl
@[simp] theorem State.withInbuf_inbuf (x : List Byte) : (s.withInbuf x).inbuf = x := rfl
@[simp] theorem State.withInbuf_pending (x : List Byte) : (s.withInbuf x).pending = s.pending := rfl
@[simp] theorem State.withInbuf_i2c (x : List Byte) : (s.withInbuf x).i2c = s.i2c := rfl
@[simp] theorem State.withInbuf_ow (x : List Byte) : (s.withInbuf x).ow = s.ow := rfl
@[simp] theorem State.withInbuf_raw (x : List Byte) : (s.withInbuf x).raw = s.raw := rfl
@[simp] theorem State.withInbuf_dw (x : List Byte) : (s.withInbuf x).dw = s.dw := rfl
@[simp] theorem State.withInbuf_acc (x : List Byte) : (s.withInbuf x).acc = s.acc := rfl
@[simp] theorem State.withInbuf_listing (x : List Byte) : (s.withInbuf x).listing = s.listing := rfl
@[simp] theorem State.withInbuf_env (x : List Byte) : (s.withInbuf x).env = s.env := rfl
@[simp] theorem State.withInbuf_trace (x : List Byte) : (s.withInbuf x).trace = s.trace := rfl
@[simp] theorem State.withInbuf_same (x y : List Byte) : (s.withInbuf x).withInbuf y = s.withInbuf y := rfl

/-! ### `State.withPending` -/

@[simp] theorem State.withPending_mode (x : Pending) : (s.withPending x).mode = s.mode := rfl
@[simp] theorem State.withPending_zeroRun (x : Pending) : (s.withPending x).zeroRun = s.zeroRun := rfl
@[simp] theorem State.withPending_firstChunk (x : Pending) : (s.withPending x).firstChunk = s.firstChunk := rfl
@[simp] theorem State.withPending_inbuf (x : Pending) : (s.withPending x).inbuf = s.inbuf := rfl
@[simp] theorem State.withPending_pending (x : Pending) : (s.withPending x).pending = x := rfl
@[simp] theorem State.withPending_i2c (x : Pending) : (s.withPending x).i2c = s.i2c := rfl
@[simp] theorem State.withPending_ow (x : Pending) : (s.withPending x).ow = s.ow := rfl
@[simp] theorem State.withPending_raw (x : Pending) : (s.withPending x).raw = s.raw := rfl
@[simp] theorem State.withPending_dw (x : Pending) : (s.withPending x).dw = s.dw := rfl
@[simp] theorem State.withPending_acc (x : Pending) : (s.withPending x).acc = s.acc := rfl
@[simp] theorem State.withPending_listing (x : Pending) : (s.withPending x).listing = s.listing := rfl
@[simp] theorem State.withPending_env (x : Pending) : (s.withPending x).env = s.env := rfl
@[simp] theorem State.withPending_trace (x : Pending) : (s.withPending x).trace = s.trace := rfl
@[simp] theorem State.withPending_same (x y : Pending) : (s.withPending x).withPending y = s.withPending y := rfl

/-! ### `State.withI2c` -/

@[simp] theorem State.withI2c_mode (x : I2cSession) : (s.withI2c x).mode = s.mode := rfl
@[simp] theorem State.withI2c_zeroRun (x : I2cSession) : (s.withI2c x).zeroRun = s.zeroRun := rfl
@[simp] theorem State.withI2c_firstChunk (x : I2cSession) : (s.withI2c x).firstChunk = s.firstChunk := rfl
@[simp] theorem State.withI2c_inbuf (x : I2cSession) : (s.withI2c x).inbuf = s.inbuf := rfl
@[simp] theorem State.withI2c_pending (x : I2cSession) : (s.withI2c x).pending = s.pending := rfl
@[simp] theorem State.withI2c_i2c (x : I2cSession) : (s.withI2c x).i2c = x := rfl
@[simp] theorem State.withI2c_ow (x : I2cSession) : (s.withI2c x).ow = s.ow := rfl
@[simp] theorem State.withI2c_raw (x : I2cSession) : (s.withI2c x).raw = s.raw := rfl
@[simp] theorem State.withI2c_dw (x : I2cSession) : (s.withI2c x).dw = s.dw := rfl
@[simp] theorem State.withI2c_acc (x : I2cSession) : (s.withI2c x).acc = s.acc := rfl
@[simp] theorem State.withI2c_listing (x : I2cSession) : (s.withI2c x).listing = s.listing := rfl
@[simp] theorem State.withI2c_env (x : I2cSession) : (s.withI2c x).env = s.env := rfl
@[simp] theorem State.withI2c_trace (x : I2cSession) : (s.withI2c x).trace = s.trace := rfl
@[simp] theorem State.withI2c_same (x y : I2cSession) : (s.withI2c x).withI2c y = s.withI2c y := rfl

/-! ### `State.withOw` -/

@[simp] theorem State.withOw_mode (x : OwSession) : (s.withOw x).mode = s.mode := rfl
@[simp] theorem State.withOw_zeroRun (x : OwSession) : (s.withOw x).zeroRun = s.zeroRun := rfl
@[simp] theorem State.withOw_firstChunk (x : OwSession) : (s.withOw x).firstChunk = s.firstChunk := rfl
@[simp] theorem State.withOw_inbuf (x : OwSession) : (s.withOw x).inbuf = s.inbuf := rfl
@[simp] theorem State.withOw_pending (x : OwSession) : (s.withOw x).pending = s.pending := rfl
@[simp] theorem State.withOw_i2c (x : OwSession) : (s.withOw x).i2c = s.i2c := rfl
@[simp] theorem State.withOw_ow (x : OwSession) : (s.withOw x).ow = x := rfl
@[simp] theorem State.withOw_raw (x : OwSession) : (s.withOw x).raw = s.raw := rfl
@[simp] theorem State.withOw_dw (x : OwSession) : (s.withOw x).dw = s.dw := rfl
@[simp] theorem State.withOw_acc (x : OwSession) : (s.withOw x).acc = s.acc := rfl
@[simp] theorem State.withOw_listing (x : OwSession) : (s.withOw x).listing = s.listing := rfl
@[simp] theorem State.withOw_env (x : OwSession) : (s.withOw x).env = s.env := rfl
@[simp] theorem State.withOw_trace (x : OwSession) : (s.withOw x).trace = s.trace := rfl
@[simp] theorem State.withOw_same (x y : OwSession) : (s.withOw x).withOw y = s.withOw y := rfl

/-! ### `State.withRaw` -/

@[simp] theorem State.withRaw_mode (x : RawSession) : (s.withRaw x).mode = s.mode := rfl
@[simp] theorem State.withRaw_zeroRun (x : RawSession) : (s.withRaw x).zeroRun = s.zeroRun := rfl
@[simp] theorem State.withRaw_firstChunk (x : RawSession) : (s.withRaw x).firstChunk = s.firstChunk := rfl
@[simp] theorem State.withRaw_inbuf (x : RawSession) : (s.withRaw x).inbuf = s.inbuf := rfl
@[simp] theorem State.withRaw_pending (x : RawSession) : (s.withRaw x).pending = s.pending := rfl
@[simp] theorem State.withRaw_i2c (x : RawSession) : (s.withRaw x).i2c = s.i2c := rfl
@[simp] theorem State.withRaw_ow (x : RawSession) : (s.withRaw x).ow = s.ow := rfl
@[simp] theorem State.withRaw_raw (x : RawSession) : (s.withRaw x).raw = x := rfl
@[simp] theorem State.withRaw_dw (x : RawSession) : (s.withRaw x).dw = s.dw := rfl
@[simp] theorem State.withRaw_acc (x : RawSession) : (s.withRaw x).acc = s.acc := rfl
@[simp] theorem State.withRaw_listing (x : RawSession) : (s.withRaw x).listing = s.listing := rfl
@[simp] theorem State.withRaw_env (x : RawSession) : (s.withRaw x).env = s.env := rfl
@[simp] theorem State.withRaw_trace (x : RawSession) : (s.withRaw x).trace = s.trace := rfl
@[simp] theorem State.withRaw_same (x y : RawSession) : (s.withRaw x).withRaw y = s.withRaw y := rfl

/-! ### `State.withDw` -/

@[simp] theorem State.withDw_mode (x : DwSession) : (s.withDw x).mode = s.mode := rfl
@[simp] theorem State.withDw_zeroRun (x : DwSession) : (s.withDw x).zeroRun = s.zeroRun := rfl
@[simp] theorem State.withDw_firstChunk (x : DwSession) : (s.withDw x).firstChunk = s.firstChunk := rfl
@[simp] theorem State.withDw_inbuf (x : DwSession) : (s.withDw x).inbuf = s.inbuf := rfl
@[simp] theorem State.withDw_pending (x : DwSession) : (s.withDw x).pending = s.pending := rfl
@[simp] theorem State.withDw_i2c (x : DwSession) : (s.withDw x).i2c = s.i2c := rfl
@[simp] theorem State.withDw_ow (x : DwSession) : (s.withDw x).ow = s.ow := rfl
@[simp] theorem State.withDw_raw (x : DwSession) : (s.withDw x).raw = s.raw := rfl
@[simp] theorem State.withDw_dw (x : DwSession) : (s.withDw x).dw = x := rfl
@[simp] theorem State.withDw_acc (x : DwSession) : (s.withDw x).acc = s.acc := rfl
@[simp] theorem State.withDw_listing (x : DwSession) : (s.withDw x).listing = s.listing := rfl
@[simp] theorem State.withDw_env (x : DwSession) : (s.withDw x).env = s.env := rfl
@[simp] theorem State.withDw_trace (x : DwSession) : (s.withDw x).trace = s.trace := rfl
@[simp] theorem State.withDw_same (x y : DwSession) : (s.withDw x).withDw y = s.withDw y := rfl

/-! ### `State.withAcc` -/

@[simp] theorem State.withAcc_mode (x : List Byte) : (s.withAcc x).mode = s.mode := rfl
@[simp] theorem State.withAcc_zeroRun (x : List Byte) : (s.withAcc x).zeroRun = s.zeroRun := rfl
@[simp] theorem State.withAcc_firstChunk (x : List Byte) : (s.withAcc x).firstChunk = s.firstChunk := rfl
@[simp] theorem State.withAcc_inbuf (x : List Byte) : (s.withAcc x).inbuf = s.inbuf := rfl
@[simp] theorem State.withAcc_pending (x : List Byte) : (s.withAcc x).pending = s.pending := rfl
@[simp] theorem State.withAcc_i2c (x : List Byte) : (s.withAcc x).i2c = s.i2c := rfl
@[simp] theorem State.withAcc_ow (x : List Byte) : (s.withAcc x).ow = s.ow := rfl
@[simp] theorem State.withAcc_raw (x : List Byte) : (s.withAcc x).raw = s.raw := rfl
@[simp] theorem State.withAcc_dw (x : List Byte) : (s.withAcc x).dw = s.dw := rfl
@[simp] theorem State.withAcc_acc (x : List Byte) : (s.withAcc x).acc = x := rfl
@[simp] theorem State.withAcc_listing (x : List Byte) : (s.withAcc x).listing = s.listing := rfl
@[simp] theorem State.withAcc_env (x : List Byte) : (s.withAcc x).env = s.env := rfl
@[simp] theorem State.withAcc_trace (x : List Byte) : (s.withAcc x).trace = s.trace := rfl
@[simp] theorem State.withAcc_same (x y : List Byte) : (s.withAcc x).withAcc y = s.withAcc y := rfl

/-! ### `State.withListing` -/

@[simp] theorem State.withListing_mode (x : Bool) : (s.withListing x).mode = s.mode := rfl
@[simp] theorem State.withListing_zeroRun (x : Bool) : (s.withListing x).zeroRun = s.zeroRun := rfl
@[simp] theorem State.withListing_firstChunk (x : Bool) : (s.withListing x).firstChunk = s.firstChunk := rfl
@[simp] theorem State.withListing_inbuf (x : Bool) : (s.withListing x).inbuf = s.inbuf := rfl
@[simp] theorem State.withListing_pending (x : Bool) : (s.withListing x).pending = s.pending := rfl
@[simp] theorem State.withListing_i2c (x : Bool) : (s.withListing x).i2c = s.i2c := rfl
@[simp] theorem State.withListing_ow (x : Bool) : (s.withListing x).ow = s.ow := rfl
@[simp] theorem State.withListing_raw (x : Bool) : (s.withListing x).raw = s.raw := rfl
@[simp] theorem State.withListing_dw (x : Bool) : (s.withListing x).dw = s.dw := rfl
@[simp] theorem State.withListing_acc (x : Bool) : (s.withListing x).acc = s.acc := rfl
@[simp] theorem State.withListing_listing (x : Bool) : (s.withListing x).listing = x := rfl
@[simp] theorem State.withListing_env (x : Bool) : (s.withListing x).env = s.env := rfl
@[simp] theorem State.withListing_trace (x : Bool) : (s.withListing x).trace = s.trace := rfl
@[simp] theorem State.withListing_same (x y : Bool) : (s.withListing x).withListing y = s.withListing y := rfl

/-! ### `State.after` -/

@[simp] theorem State.after_mode (es : List Event) (n : Nat) : (s.after es n).mode = s.mode := rfl
@[simp] theorem State.after_zeroRun (es : List Event) (n : Nat) : (s.after es n).zeroRun = s.zeroRun := rfl
@[simp] theorem State.after_firstChunk (es : List Event) (n : Nat) : (s.after es n).firstChunk = s.firstChunk := rfl
@[simp] theorem State.after_inbuf (es : List Event) (n : Nat) : (s.after es n).inbuf = s.inbuf := rfl
@[simp] theorem State.after_pending (es : List Event) (n : Nat) : (s.after es n).pending = s.pending := rfl
@[simp] theorem State.after_i2c (es : List Event) (n : Nat) : (s.after es n).i2c = s.i2c := rfl
@[simp] theorem State.after_ow (es : List Event) (n : Nat) : (s.after es n).ow = s.ow := rfl
@[simp] theorem State.after_raw (es : List Event) (n : Nat) : (s.after es n).raw = s.raw := rfl
@[simp] theorem State.after_dw (es : List Event) (n : Nat) : (s.after es n).dw = s.dw := rfl
@[simp] theorem State.after_acc (es : List Event) (n : Nat) : (s.after es n).acc = s.acc := rfl
@[simp] theorem State.after_listing (es : List Event) (n : Nat) : (s.after es n).listing = s.listing := rfl
@[simp] theorem State.after_env_pins (es : List Event) (n : Nat) : (s.after es n).env.pins = pinEffects s.env.pins es := rfl
@[simp] theorem State.after_env_levels (es : List Event) (n : Nat) : (s.after es n).env.levels = s.env.levels := rfl
@[simp] theorem State.after_env_drawn (es : List Event) (n : Nat) : (s.after es n).env.drawn = s.env.drawn + n := rfl
@[simp] theorem State.after_env_rx (es : List Event) (n : Nat) : (s.after es n).env.rx = s.env.rx := rfl
@[simp] theorem State.after_env_tx (es : List Event) (n : Nat) : (s.after es n).env.tx = s.env.tx := rfl
@[simp] theorem State.after_env_port (es : List Event) (n : Nat) : (s.after es n).env.port = s.env.port := rfl
@[simp] theorem State.after_trace (es : List Event) (n : Nat) : (s.after es n).trace = es.reverse ++ s.trace := rfl

/-! ### `emit` -/

@[simp] theorem emit_mode (es : List Event) : (emit es s).mode = s.mode := rfl
@[simp] theorem emit_zeroRun (es : List Event) : (emit es s).zeroRun = s.zeroRun := rfl
@[simp] theorem emit_firstChunk (es : List Event) : (emit es s).firstChunk = s.firstChunk := rfl
@[simp] theorem emit_inbuf (es : List Event) : (emit es s).inbuf = s.inbuf := rfl
@[simp] theorem emit_pending (es : List Event) : (emit es s).pending = s.pending := rfl
@[simp] theorem emit_i2c (es : List Event) : (emit es s).i2c = s.i2c := rfl
@[simp] theorem emit_ow (es : List Event) : (emit es s).ow = s.ow := rfl
@[simp] theorem emit_raw (es : List Event) : (emit es s).raw = s.raw := rfl
@[simp] theorem emit_dw (es : List Event) : (emit es s).dw = s.dw := rfl
@[simp] theorem emit_acc (es : List Event) : (emit es s).acc = s.acc := rfl
@[simp] theorem emit_listing (es : List Event) : (emit es s).listing = s.listing := rfl
@[simp] theorem emit_env_pins (es : List Event) : (emit es s).env.pins = pinEffects s.env.pins es := rfl
@[simp] theorem emit_env_levels (es : List Event) : (emit es s).env.levels = s.env.levels := rfl
@[simp] theorem emit_env_drawn (es : List Event) : (emit es s).env.drawn = s.env.drawn := rfl
@[simp] theorem emit_env_rx (es : List Event) : (emit es s).env.rx = s.env.rx := rfl
@[simp] theorem emit_env_tx (es : List Event) : (emit es s).env.tx = s.env.tx := rfl
@[simp] theorem emit_env_port (es : List Event) : (emit es s).env.port = s.env.port := rfl
@[simp] theorem emit_trace (es : List Event) : (emit es s).trace = es.reverse ++ s.trace := rfl

/-! ### `State.sending` -/

@[simp] theorem State.sending_mode (bs : List Byte) (r : SendResult) : (s.sending bs r).mode = s.mode := rfl
@[simp] theorem State.sending_zeroRun (bs : List Byte) (r : SendResult) : (s.sending bs r).zeroRun = s.zeroRun := rfl
@[simp] theorem State.sending_firstChunk (bs : List Byte) (r : SendResult) : (s.sending bs r).firstChunk = s.firstChunk := rfl
@[simp] theorem State.sending_inbuf (bs : List Byte) (r : SendResult) : (s.sending bs r).inbuf = s.inbuf := rfl
@[simp] theorem State.sending_pending (bs : List Byte) (r : SendResult) : (s.sending bs r).pending = s.pending := rfl
@[simp] theorem State.sending_i2c (bs : List Byte) (r : SendResult) : (s.sending bs r).i2c = s.i2c := rfl
@[simp] theorem State.sending_ow (bs : List Byte) (r : SendResult) : (s.sending bs r).ow = s.ow := rfl
@[simp] theorem State.sending_raw (bs : List Byte) (r : SendResult) : (s.sending bs r).raw = s.raw := rfl
@[simp] theorem State.sending_dw (bs : List Byte) (r : SendResult) : (s.sending bs r).dw = s.dw := rfl
@[simp] theorem State.sending_acc (bs : List Byte) (r : SendResult) : (s.sending bs r).acc = s.acc := rfl
@[simp] theorem State.sending_listing (bs : List Byte) (r : SendResult) : (s.sending bs r).listing = s.listing := rfl
@[simp] theorem State.sending_env_pins (bs : List Byte) (r : SendResult) : (s.sending bs r).env.pins = s.env.pins := rfl
@[simp] theorem State.sending_env_levels (bs : List Byte) (r : SendResult) : (s.sending bs r).env.levels = s.env.levels := rfl
@[simp] theorem State.sending_env_drawn (bs : List Byte) (r : SendResult) : (s.sending bs r).env.drawn = s.env.drawn := rfl
@[simp] theorem State.sending_env_rx (bs : List Byte) (r : SendResult) : (s.sending bs r).env.rx = s.env.rx := rfl
@[simp] theorem State.sending_env_tx (bs : List Byte) (r : SendResult) : (s.sending bs r).env.tx = s.env.tx.tail := rfl
@[simp] theorem State.sending_env_port (bs : List Byte) (r : SendResult) : (s.sending bs r).env.port = s.env.port := rfl
@[simp] theorem State.sending_trace (bs : List Byte) (r : SendResult) : (s.sending bs r).trace = .send bs r :: s.trace := rfl

/-! ### `emitSend` -/

@[simp] theorem emitSend_mode (bs : List Byte) : (emitSend bs s).mode = s.mode := rfl
@[simp] theorem emitSend_zeroRun (bs : List Byte) : (emitSend bs s).zeroRun = s.zeroRun := rfl
@[simp] theorem emitSend_firstChunk (bs : List Byte) : (emitSend bs s).firstChunk = s.firstChunk := rfl
@[simp] theorem emitSend_inbuf (bs : List Byte) : (emitSend bs s).inbuf = s.inbuf := rfl
@[simp] theorem emitSend_pending (bs : List Byte) : (emitSend bs s).pending = s.pending := rfl
@[simp] theorem emitSend_i2c (bs : List Byte) : (emitSend bs s).i2c = s.i2c := rfl
@[simp] theorem emitSend_ow (bs : List Byte) : (emitSend bs s).ow = s.ow := rfl
@[simp] theorem emitSend_raw (bs : List Byte) : (emitSend bs s).raw = s.raw := rfl
@[simp] theorem emitSend_dw (bs : List Byte) : (emitSend bs s).dw = s.dw := rfl
@[simp] theorem emitSend_acc (bs : List Byte) : (emitSend bs s).acc = s.acc := rfl
@[simp] theorem emitSend_listing (bs : List Byte) : (emitSend bs s).listing = s.listing := rfl
@[simp] theorem emitSend_env_pins (bs : List Byte) : (emitSend bs s).env.pins = s.env.pins := rfl
@[simp] theorem emitSend_env_levels (bs : List Byte) : (emitSend bs s).env.levels = s.env.levels := rfl
@[simp] theorem emitSend_env_drawn (bs : List Byte) : (emitSend bs s).env.drawn = s.env.drawn := rfl
@[simp] theorem emitSend_env_rx (bs : List Byte) : (emitSend bs s).env.rx = s.env.rx := rfl
@[simp] theorem emitSend_env_tx (bs : List Byte) : (emitSend bs s).env.tx = s.env.tx.tail := rfl
@[simp] theorem emitSend_env_port (bs : List Byte) : (emitSend bs s).env.port = s.env.port := rfl
@[simp] theorem emitSend_trace (bs : List Byte) : (emitSend bs s).trace = .send bs s.env.sendResult :: s.trace := rfl

/-! ### `enterSelect` -/

@[simp] theorem enterSelect_mode : (enterSelect s).mode = .select := rfl
@[simp] theorem enterSelect_zeroRun : (enterSelect s).zeroRun = 0 := rfl
@[simp] theorem enterSelect_firstChunk : (enterSelect s).firstChunk = true := rfl
@[simp] theorem enterSelect_inbuf : (enterSelect s).inbuf = [] := rfl
@[simp] theorem enterSelect_pending : (enterSelect s).pending = .none := rfl
@[simp] theorem enterSelect_i2c : (enterSelect s).i2c = s.i2c := rfl
@[simp] theorem enterSelect_ow : (enterSelect s).ow = s.ow := rfl
@[simp] theorem enterSelect_raw : (enterSelect s).raw = s.raw := rfl
@[simp] theorem enterSelect_dw : (enterSelect s).dw = s.dw := rfl
@[simp] theorem enterSelect_acc : (enterSelect s).acc = [] := rfl
@[simp] theorem enterSelect_listing : (enterSelect s).listing = false := rfl
@[simp] theorem enterSelect_env_pins : (enterSelect s).env.pins = s.env.pins := rfl
@[simp] theorem enterSelect_env_levels : (enterSelect s).env.levels = s.env.levels := rfl
@[simp] theorem enterSelect_env_drawn : (enterSelect s).env.drawn = s.env.drawn := rfl
@[simp] theorem enterSelect_env_rx : (enterSelect s).env.rx = s.env.rx := rfl
@[simp] theorem enterSelect_env_tx : (enterSelect s).env.tx = s.env.tx := rfl
@[simp] theorem enterSelect_env_port : (enterSelect s).env.port = s.env.port := rfl
@[simp] theorem enterSelect_trace : (enterSelect s).trace = s.trace := rfl

/-! ### `transportFault` -/

@[simp] theorem transportFault_mode : (transportFault s).mode = .select := rfl
@[simp] theorem transportFault_zeroRun : (transportFault s).zeroRun = 0 := rfl
@[simp] theorem transportFault_firstChunk : (transportFault s).firstChunk = true := rfl
@[simp] theorem transportFault_inbuf : (transportFault s).inbuf = [] := rfl
@[simp] theorem transportFault_pending : (transportFault s).pending = .none := rfl
@[simp] theorem transportFault_i2c : (transportFault s).i2c = s.i2c := rfl
@[simp] theorem transportFault_ow : (transportFault s).ow = s.ow := rfl
@[simp] theorem transportFault_raw : (transportFault s).raw = if s.mode = .raw then rawDefaults else s.raw := rfl
@[simp] theorem transportFault_dw : (transportFault s).dw = s.dw := rfl
@[simp] theorem transportFault_acc : (transportFault s).acc = [] := rfl
@[simp] theorem transportFault_listing : (transportFault s).listing = false := rfl
@[simp] theorem transportFault_env_pins : (transportFault s).env.pins = s.env.pins := rfl
@[simp] theorem transportFault_env_levels : (transportFault s).env.levels = s.env.levels := rfl
@[simp] theorem transportFault_env_drawn : (transportFault s).env.drawn = s.env.drawn := rfl
@[simp] theorem transportFault_env_rx : (transportFault s).env.rx = s.env.rx := rfl
@[simp] theorem transportFault_env_tx : (transportFault s).env.tx = s.env.tx := rfl
@[simp] theorem transportFault_env_port : (transportFault s).env.port = s.env.port := rfl
@[simp] theorem transportFault_trace : (transportFault s).trace = s.trace := rfl

end Sys2Proof.Machine
end

