-- ==== Sys2Proof/Laws/Ops.lean ====
section
/-! SUPPORT. What the shared operations of Machine/Ops.lean and Machine/Operands.lean do, said once: events and draws, sends,
the tracked pins, the ROM buffer, the instruction table, and bytes shifted bit by bit. -/

namespace Sys2Proof.Machine

/-! ### Events and draws -/

theorem State.after_nil (s : State) : s.after [] 0 = s := rfl

@[simp] theorem State.after_after (s : State) (es fs : List Event) (m n : Nat) :
    (s.after es m).after fs n = s.after (es ++ fs) (m + n) := by
  simp [State.after, pinEffects, Nat.add_assoc]

@[simp] theorem emit_eq_after (es : List Event) (s : State) : emit es s = s.after es 0 := rfl

@[simp] theorem State.level_after (s : State) (es : List Event) (m k : Nat) :
    (s.after es m).level k = s.level (m + k) := by
  simp [State.level, Env.draw, State.after, Nat.add_assoc]

/-- `Get` answers the next draw and records it. -/
theorem getLevel_eq (p : PinId) (s : State) : getLevel p s = (s.level 0, s.after [.get p (s.level 0)] 1) := rfl

/-- `GetDir` of a pin with a direction answers it and draws nothing. -/
theorem getDir_known {p : PinId} {s : State} {d : Bool} (h : (lookupPin p s.env.pins).input = some d) :
    getDir p s = (d, s.after [.getDir p d] 0) := by
  simp [getDir, h]

/-- `GetDir` of a pin without one draws the answer. -/
theorem getDir_unknown {p : PinId} {s : State} (h : (lookupPin p s.env.pins).input = none) :
    getDir p s = (s.level 0, s.after [.getDir p (s.level 0)] 1) := by
  simp [getDir, h, State.level]

/-! ### Sends -/

theorem emitSend_eq_sending (bs : List Byte) (s : State) : emitSend bs s = s.sending bs s.env.sendResult := rfl

/-- An accepted `Send` goes on with the rest of the command. -/
theorem sendThen_sent {bs : List Byte} {k : State → State} {s : State} (h : s.env.sendResult = .sent) :
    sendThen bs k s = k (s.sending bs .sent) := by
  simp [sendThen, emitSend_eq_sending, h, SendResult.accepted]

/-- A failed `Send` is a `TransportFault`. -/
theorem sendThen_failed {bs : List Byte} {k : State → State} {s : State} (h : s.env.sendResult ≠ .sent) :
    sendThen bs k s = transportFault (s.sending bs s.env.sendResult) := by
  cases hr : s.env.sendResult <;> simp_all [sendThen, emitSend_eq_sending, SendResult.accepted]

/-- A command that does something and then sends answers. -/
theorem answers_of_sendThen {i : Instr} {s u : State} {bs : List Byte} {k : State → State}
    (h : exec i s = .next (sendThen bs k u)) (hu : u.env.sendResult = s.env.sendResult) : Answers i s u bs k := by
  refine ⟨fun hs => ?_, fun hs => ?_⟩
  · rw [h, sendThen_sent (hu.trans hs)]
  · rw [h, sendThen_failed (fun e => hs (hu ▸ e)), hu]

@[simp] theorem State.after_sendResult (s : State) (es : List Event) (n : Nat) :
    (s.after es n).env.sendResult = s.env.sendResult := rfl

/-! ### The tracked pins -/

theorem pinEffects_append (pins : List (PinId × PinSetting)) (es fs : List Event) :
    pinEffects pins (es ++ fs) = pinEffects (pinEffects pins es) fs := by
  simp [pinEffects]

theorem PinId.key_injective {p q : PinId} (h : p.key = q.key) : p = q := by
  cases p <;> cases q <;> simp_all [PinId.key]

/-- After a write of a pin what is kept of it is the write applied to something, in any list. -/
theorem lookupPin_updatePin_some (p : PinId) (f : PinSetting → PinSetting) (pins : List (PinId × PinSetting)) :
    ∃ c, lookupPin p (updatePin p f pins) = f c := by
  induction pins with
  | nil => exact ⟨{ input := none, openDrain := none, latch := none }, by simp [updatePin, lookupPin]⟩
  | cons a rest ih =>
    obtain ⟨q, c⟩ := a
    by_cases hq : q = p
    · exact ⟨c, by simp [updatePin, lookupPin, hq]⟩
    · by_cases hk : p.key < q.key
      · exact ⟨{ input := none, openDrain := none, latch := none }, by simp [updatePin, lookupPin, hq, hk]⟩
      · simpa [updatePin, lookupPin, hq, hk] using ih

theorem lookupPin_of_all_greater {p : PinId} {pins : List (PinId × PinSetting)} (h : ∀ a ∈ pins, p.key < a.1.key) :
    lookupPin p pins = { input := none, openDrain := none, latch := none } := by
  induction pins with
  | nil => rfl
  | cons a rest ih =>
    have hne : a.1 ≠ p := fun e => Nat.lt_irrefl p.key (by simpa [e] using h a List.mem_cons_self)
    simpa [lookupPin, hne] using ih fun b hb => h b (List.mem_cons_of_mem _ hb)

/-- After a write of a pin what is kept of it is the write applied to what was kept before, in a rising list. -/
theorem lookupPin_updatePin_same (p : PinId) (f : PinSetting → PinSetting) {pins : List (PinId × PinSetting)}
    (h : pins.Pairwise fun a b => a.1.key < b.1.key) :
    lookupPin p (updatePin p f pins) = f (lookupPin p pins) := by
  induction pins with
  | nil => simp [updatePin, lookupPin]
  | cons a rest ih =>
    obtain ⟨q, c⟩ := a
    rw [List.pairwise_cons] at h
    by_cases hq : q = p
    · simp [updatePin, lookupPin, hq]
    · by_cases hk : p.key < q.key
      · have hg : lookupPin p rest = { input := none, openDrain := none, latch := none } :=
          lookupPin_of_all_greater fun a ha => Nat.lt_trans hk (h.1 a ha)
        simp [updatePin, lookupPin, hq, hk, hg]
      · simpa [updatePin, lookupPin, hq, hk] using ih h.2

/-- Writing one pin leaves what is kept of every other pin. -/
theorem lookupPin_updatePin_other {p q : PinId} (h : q ≠ p) (f : PinSetting → PinSetting)
    (pins : List (PinId × PinSetting)) : lookupPin q (updatePin p f pins) = lookupPin q pins := by
  induction pins with
  | nil => simp [updatePin, lookupPin, Ne.symm h]
  | cons a rest ih =>
    obtain ⟨r, c⟩ := a
    by_cases hr : r = p
    · subst hr; simp [updatePin, lookupPin, Ne.symm h]
    · by_cases hk : p.key < r.key
      · simp [updatePin, lookupPin, hr, hk, Ne.symm h]
      · by_cases hq : r = q
        · subst hq
          simp [updatePin, lookupPin, hr, hk]
        · simpa [updatePin, lookupPin, hr, hk, hq] using ih

theorem key_le_of_mem_updatePin {p : PinId} {f : PinSetting → PinSetting} {pins : List (PinId × PinSetting)}
    {a : PinId × PinSetting} (h : a ∈ updatePin p f pins) : a.1 = p ∨ a ∈ pins := by
  induction pins with
  | nil => simp [updatePin] at h; simp [h]
  | cons b rest ih =>
    obtain ⟨q, c⟩ := b
    simp only [updatePin] at h
    split at h
    · rename_i hq
      rcases List.mem_cons.1 h with rfl | h
      · exact .inl hq
      · exact .inr (List.mem_cons_of_mem _ h)
    · split at h
      · rcases List.mem_cons.1 h with rfl | h
        · exact .inl rfl
        · exact .inr h
      · rcases List.mem_cons.1 h with rfl | h
        · exact .inr List.mem_cons_self
        · exact (ih h).imp id (List.mem_cons_of_mem _)

/-- Every write of a pin keeps the rising order of the list. -/
theorem updatePin_rising {p : PinId} {f : PinSetting → PinSetting} {pins : List (PinId × PinSetting)}
    (h : pins.Pairwise fun a b => a.1.key < b.1.key) :
    (updatePin p f pins).Pairwise fun a b => a.1.key < b.1.key := by
  induction pins with
  | nil => simp [updatePin]
  | cons b rest ih =>
    obtain ⟨q, c⟩ := b
    rw [List.pairwise_cons] at h
    simp only [updatePin]
    split
    · exact List.pairwise_cons.2 ⟨h.1, h.2⟩
    · split
      · rename_i hlt
        refine List.pairwise_cons.2 ⟨fun a ha => ?_, List.pairwise_cons.2 h⟩
        rcases List.mem_cons.1 ha with rfl | ha
        · exact hlt
        · exact Nat.lt_trans hlt (h.1 a ha)
      · rename_i hne hlt
        refine List.pairwise_cons.2 ⟨fun a ha => ?_, ih h.2⟩
        rcases key_le_of_mem_updatePin ha with hp | ha
        · have : q.key ≠ p.key := fun e => hne (PinId.key_injective e)
          rw [hp]; show q.key < p.key; omega
        · exact h.1 a ha

/-- A write that sets something adds no entry that says nothing. -/
theorem updatePin_no_default {p : PinId} {f : PinSetting → PinSetting} {pins : List (PinId × PinSetting)}
    (hf : ∀ c, f c ≠ { input := none, openDrain := none, latch := none })
    (h : ∀ a ∈ pins, a.2 ≠ { input := none, openDrain := none, latch := none }) :
    ∀ a ∈ updatePin p f pins, a.2 ≠ { input := none, openDrain := none, latch := none } := by
  induction pins with
  | nil => simp [updatePin, hf]
  | cons b rest ih =>
    obtain ⟨q, c⟩ := b
    have hrest : ∀ a ∈ rest, a.2 ≠ _ := fun a ha => h a (List.mem_cons_of_mem _ ha)
    simp only [updatePin]
    split
    · intro a ha
      rcases List.mem_cons.1 ha with rfl | ha
      · exact hf c
      · exact hrest a ha
    · split
      · intro a ha
        rcases List.mem_cons.1 ha with rfl | ha
        · exact hf _
        · exact h a ha
      · intro a ha
        rcases List.mem_cons.1 ha with rfl | ha
        · exact h _ List.mem_cons_self
        · exact ih hrest a ha

/-- Every event keeps the tracked pins in their canonical form. -/
theorem pinEffect_canonical {pins : List (PinId × PinSetting)} (h : pinsCanonical pins) (e : Event) :
    pinsCanonical (pinEffect pins e) := by
  cases e with
  | setInput p => exact ⟨updatePin_rising h.1, updatePin_no_default (by simp) h.2⟩
  | setOutput p od => exact ⟨updatePin_rising h.1, updatePin_no_default (by simp) h.2⟩
  | set p l => exact ⟨updatePin_rising h.1, updatePin_no_default (by simp) h.2⟩
  | _ => exact h

/-- So does every sequence of events. -/
theorem pinEffects_canonical {pins : List (PinId × PinSetting)} (h : pinsCanonical pins) (es : List Event) :
    pinsCanonical (pinEffects pins es) := by
  induction es generalizing pins with
  | nil => exact h
  | cons e es ih => exact ih (pinEffect_canonical h e)

/-! ### The ROM buffer and the bytes of the wires -/

/-- Writing one bit of the ROM buffer writes that bit and no other (R42). -/
theorem romBit_setRomBit {rom : BitVec 64} {k j : Nat} (hk : k < 64) (d : Bool) :
    romBit (setRomBit rom k d) j = if j = k then d else romBit rom j := by
  unfold romBit setRomBit
  rcases Nat.lt_or_ge j 64 with hj | hj
  · by_cases hjk : j = k
    · subst hjk; cases d <;> simp [hj]
    · have : ¬ (j - k = 0 ∧ k ≤ j) := by omega
      cases d <;> simp [hj, hjk] <;> omega
  · have : j ≠ k := by omega
    cases d <;> simp [BitVec.getLsbD_of_ge _ _ hj, this]

/-- Writing one bit of a byte writes that bit and no other (R17). -/
theorem getLsbD_setByteBit {v : Byte} {i j : Nat} (hi : i < 8) (b : Bool) :
    (setByteBit v i b).getLsbD j = if j = i then b else v.getLsbD j := by
  unfold setByteBit
  rcases Nat.lt_or_ge j 8 with hj | hj
  · by_cases hij : j = i
    · subst hij; cases b <;> simp [hj]
    · cases b <;> simp [hj, hij] <;> omega
  · have : j ≠ i := by omega
    cases b <;> simp [BitVec.getLsbD_of_ge _ _ hj, this]

/-- A byte read bit by bit, where each bit is one draw with the events around it. -/
theorem readBits_eq {read : State → Bool × State} {P : State → Prop} {evs : Bool → List Event}
    (hread : ∀ t, P t → read t = (t.level 0, t.after (evs (t.level 0)) 1))
    (hP : ∀ t es n, P t → P (t.after es n)) :
    ∀ (is : List Nat) (v : Byte) (s : State), P s →
      readBits read is v s =
        ((is.zipIdx).foldl (fun w ik => setByteBit w ik.1 (s.level ik.2)) v,
          s.after ((List.range is.length).flatMap fun k => evs (s.level k)) is.length) := by
  intro is
  induction is with
  | nil => intro v s _; rfl
  | cons i is ih =>
    intro v s hs
    simp only [readBits, hread s hs]
    rw [ih _ _ (hP _ _ _ hs)]
    simp only [State.after_after, State.level_after]
    refine Prod.ext ?_ ?_
    · simp [List.zipIdx_cons, List.zipIdx_succ, List.foldl_map, Nat.add_comm]
    · simp only [List.length_cons, List.range_succ_eq_map, List.flatMap_cons, List.flatMap_map]
      simp [Nat.add_comm, Nat.succ_eq_add_one]

/-- A byte written bit by bit, where each bit is some events. -/
theorem writeBits_eq {write : Bool → State → State} {P : State → Prop} {evs : Bool → List Event} (v : Byte)
    (hwrite : ∀ b t, P t → write b t = t.after (evs b) 0)
    (hP : ∀ t es n, P t → P (t.after es n)) :
    ∀ (is : List Nat) (s : State), P s →
      writeBits write v is s = s.after (is.flatMap fun i => evs (v.getLsbD i)) 0 := by
  intro is
  induction is with
  | nil => intro s _; rfl
  | cons i is ih =>
    intro s hs
    simp only [writeBits, hwrite _ s hs]
    rw [ih _ (hP _ _ _ hs)]
    simp

/-! ### The instruction table (R342) -/

/-- A patch writes the bytes it is given, and no other slot. -/
theorem patchTable_get (bytes : List Byte) :
    ∀ (t : Vector Byte 16) (offset i : Nat) (hi : i < 16),
      (patchTable t offset bytes)[i] =
        if h : offset ≤ i ∧ i - offset < bytes.length then bytes[i - offset]'h.2 else t[i] := by
  induction bytes with
  | nil => intro t offset i hi; simp [patchTable]
  | cons b bs ih =>
    intro t offset i hi
    simp only [patchTable, ih]
    rcases Nat.lt_trichotomy i offset with h | h | h
    · have h1 : ¬ (offset + 1 ≤ i) := by omega
      have h2 : ¬ (offset ≤ i) := by omega
      simp [h1, h2, Nat.ne_of_gt h]
    · subst h
      simp
    · have h1 : offset + 1 ≤ i := by omega
      have h2 : offset ≤ i := by omega
      obtain ⟨d, rfl⟩ : ∃ d, i = offset + 1 + d := ⟨i - (offset + 1), by omega⟩
      have h3 : offset + 1 + d - offset = d + 1 := by omega
      have h4 : offset + 1 + d - (offset + 1) = d := by omega
      have h5 : offset ≠ offset + 1 + d := by omega
      simp only [h1, h2, h3, h4, h5, Vector.getElem_setIfInBounds, List.length_cons, List.getElem_cons_succ,
        Nat.add_lt_add_iff_right, true_and, if_false]

end Sys2Proof.Machine
end

