-- ==== Sys2Proof/Laws/Engines.lean ====
section
/-! SUPPORT. What each engine operation can do, said once: `BusOnly` for the operations that only drive, sample and wait, and
one law for each operation that also writes its session. The bit operations are given in full; the byte operations follow
from them by `readBits_eq` and `writeBits_eq`. -/

namespace Sys2Proof.Machine

/-! ### Activity on the pins alone -/

/-- Whether an event is pin, delay or guard activity. -/
def Event.onBus : Event → Bool
  | .setInput _ | .setOutput _ _ | .set _ _ | .get _ _ | .delay _ | .guardBegin | .guardEnd => true
  | .getDir _ _ | .recv _ _ | .send _ _ | .engineCall _ | .engineReturn _ | .toShell | .shellExit => false

/-- `t` is `s` after pin, delay and guard activity with every guard closed; every sample is one draw. -/
def BusOnly (s t : State) : Prop :=
  ∃ es : List Event, t = s.after es (es.countP Event.isSample) ∧ es.all Event.onBus = true
    ∧ guardOpen es.reverse = some false

theorem guardOpen_append {es fs : List Event} (hf : guardOpen fs = some false) :
    ∀ {b : Bool}, guardOpen es = some b → guardOpen (es ++ fs) = some b := by
  induction es with
  | nil => intro b h; simpa [guardOpen] using h ▸ hf
  | cons e es ih =>
    intro b h
    simp only [List.cons_append, guardOpen] at h ⊢
    cases ho : guardOpen es with
    | none => simp [ho] at h
    | some o => rw [ih ho]; rw [ho] at h; exact h

theorem BusOnly.refl (s : State) : BusOnly s s := ⟨[], rfl, rfl, rfl⟩

theorem BusOnly.trans {s t u : State} (h : BusOnly s t) (k : BusOnly t u) : BusOnly s u := by
  obtain ⟨es, rfl, hb, hg⟩ := h
  obtain ⟨fs, rfl, kb, kg⟩ := k
  refine ⟨es ++ fs, by simp, by simp [hb, kb], ?_⟩
  rw [List.reverse_append]
  exact guardOpen_append hg kg

/-- A fixed sequence of pin, delay and guard events. -/
theorem BusOnly.emit {es : List Event} (hs : es.countP Event.isSample = 0) (hb : es.all Event.onBus = true)
    (hg : guardOpen es.reverse = some false) (s : State) : BusOnly s (emit es s) :=
  ⟨es, by simp [hs], hb, hg⟩

theorem BusOnly.getLevel (p : PinId) (s : State) : BusOnly s (getLevel p s).2 :=
  ⟨[.get p (s.level 0)], rfl, rfl, rfl⟩

theorem BusOnly.readBits {read : State → Bool × State} (h : ∀ t, BusOnly t (read t).2) :
    ∀ (is : List Nat) (v : Byte) (s : State), BusOnly s (readBits read is v s).2
  | [], _, s => BusOnly.refl s
  | _ :: is, _, s => (h s).trans (BusOnly.readBits h is _ _)

theorem BusOnly.writeBits {write : Bool → State → State} (h : ∀ b t, BusOnly t (write b t)) (v : Byte) :
    ∀ (is : List Nat) (s : State), BusOnly s (writeBits write v is s)
  | [], s => BusOnly.refl s
  | i :: is, s => (h (v.getLsbD i) s).trans (BusOnly.writeBits h v is _)

theorem BusOnly.exchangeBits {write : Bool → State → Bool × State} (h : ∀ b t, BusOnly t (write b t).2) (v : Byte) :
    ∀ (is : List Nat) (r : Byte) (s : State), BusOnly s (exchangeBits write v is r s).2
  | [], _, s => BusOnly.refl s
  | i :: is, _, s => (h (v.getLsbD i) s).trans (BusOnly.exchangeBits h v is _ _)

section Frame

variable {s t : State}

theorem BusOnly.mode (h : BusOnly s t) : t.mode = s.mode := by obtain ⟨es, rfl, -⟩ := h; rfl
theorem BusOnly.zeroRun (h : BusOnly s t) : t.zeroRun = s.zeroRun := by obtain ⟨es, rfl, -⟩ := h; rfl
theorem BusOnly.firstChunk (h : BusOnly s t) : t.firstChunk = s.firstChunk := by obtain ⟨es, rfl, -⟩ := h; rfl
theorem BusOnly.inbuf (h : BusOnly s t) : t.inbuf = s.inbuf := by obtain ⟨es, rfl, -⟩ := h; rfl
theorem BusOnly.pending (h : BusOnly s t) : t.pending = s.pending := by obtain ⟨es, rfl, -⟩ := h; rfl
theorem BusOnly.i2c (h : BusOnly s t) : t.i2c = s.i2c := by obtain ⟨es, rfl, -⟩ := h; rfl
theorem BusOnly.ow (h : BusOnly s t) : t.ow = s.ow := by obtain ⟨es, rfl, -⟩ := h; rfl
theorem BusOnly.raw (h : BusOnly s t) : t.raw = s.raw := by obtain ⟨es, rfl, -⟩ := h; rfl
theorem BusOnly.dw (h : BusOnly s t) : t.dw = s.dw := by obtain ⟨es, rfl, -⟩ := h; rfl
theorem BusOnly.acc (h : BusOnly s t) : t.acc = s.acc := by obtain ⟨es, rfl, -⟩ := h; rfl
theorem BusOnly.listing (h : BusOnly s t) : t.listing = s.listing := by obtain ⟨es, rfl, -⟩ := h; rfl
theorem BusOnly.rx (h : BusOnly s t) : t.env.rx = s.env.rx := by obtain ⟨es, rfl, -⟩ := h; rfl
theorem BusOnly.tx (h : BusOnly s t) : t.env.tx = s.env.tx := by obtain ⟨es, rfl, -⟩ := h; rfl
theorem BusOnly.port (h : BusOnly s t) : t.env.port = s.env.port := by obtain ⟨es, rfl, -⟩ := h; rfl

theorem BusOnly.withOw (h : BusOnly s t) (x : OwSession) : BusOnly (s.withOw x) (t.withOw x) := by
  obtain ⟨es, rfl, hb, hg⟩ := h
  exact ⟨es, rfl, hb, hg⟩

theorem BusOnly.withDw (h : BusOnly s t) (x : DwSession) : BusOnly (s.withDw x) (t.withDw x) := by
  obtain ⟨es, rfl, hb, hg⟩ := h
  exact ⟨es, rfl, hb, hg⟩

end Frame

/-! ### The I2C engine -/

/-- `i2c.read_bit()` in full (R155). -/
theorem i2cReadBit_eq (s : State) :
    i2cReadBit s = (s.level 0, s.after [.set s.i2c.sda true, .delay 5, .set s.i2c.scl true, .delay 5,
      .get s.i2c.sda (s.level 0), .set s.i2c.scl false] 1) := by
  simp [i2cReadBit, getLevel_eq, Config.i2cHalfUs]

/-- `i2c.write_bit(b)` in full (R154). -/
theorem i2cWriteBit_eq (b : Bool) (s : State) :
    i2cWriteBit b s = s.after [.set s.i2c.sda b, .delay 5, .set s.i2c.scl true, .delay 5, .set s.i2c.scl false] 0 := by
  simp [i2cWriteBit, i2cWriteBitEvents, Config.i2cHalfUs]

theorem i2cStart_busOnly (s : State) : BusOnly s (i2cStart s) := BusOnly.emit rfl rfl rfl s
theorem i2cStop_busOnly (s : State) : BusOnly s (i2cStop s) := BusOnly.emit rfl rfl rfl s
theorem i2cWriteBit_busOnly (b : Bool) (s : State) : BusOnly s (i2cWriteBit b s) := BusOnly.emit rfl rfl rfl s

theorem i2cReadBit_busOnly (s : State) : BusOnly s (i2cReadBit s).2 :=
  ((BusOnly.emit rfl rfl rfl s).trans (BusOnly.getLevel _ _)).trans (BusOnly.emit rfl rfl rfl _)

theorem i2cReadByte_busOnly (s : State) : BusOnly s (i2cReadByte s).2 := BusOnly.readBits i2cReadBit_busOnly _ _ _

theorem i2cWriteByte_busOnly (v : Byte) (s : State) : BusOnly s (i2cWriteByte v s).2 :=
  (BusOnly.writeBits i2cWriteBit_busOnly v _ s).trans (i2cReadBit_busOnly _)

theorem i2cPullupsOk_busOnly (s : State) : BusOnly s (i2cPullupsOk s).2 :=
  ((BusOnly.emit rfl rfl rfl s).trans (BusOnly.getLevel _ _)).trans (BusOnly.getLevel _ _)

/-- `i2c.init` writes its two pins and drives the bus. -/
theorem i2cInit_busOnly (clock data : PinId) (s : State) :
    BusOnly (s.withI2c { scl := clock, sda := data }) (i2cInit clock data s) := BusOnly.emit rfl rfl rfl _

/-! ### The 1-Wire engine -/

/-- `ow.read_bit()` in full (R203). -/
theorem owReadBit_eq (s : State) :
    owReadBit s = (s.level 0, s.after [.set s.ow.pin false, .delay 6, .set s.ow.pin true, .delay 9,
      .get s.ow.pin (s.level 0), .delay 55] 1) := by
  simp [owReadBit, getLevel_eq]

/-- `ow.reset(nowait)` in full (R204). -/
theorem owReset_eq (nowait : Bool) (s : State) :
    owReset nowait s = (!s.level 0, s.after ([.set s.ow.pin false, .delay 480, .set s.ow.pin true, .delay 70,
      .get s.ow.pin (s.level 0)] ++ if nowait then [] else [.delay 410]) 1) := by
  cases nowait <;> simp [owReset, getLevel_eq, Config.owRecoveryUs]

theorem owWriteBit_busOnly (b : Bool) (s : State) : BusOnly s (owWriteBit b s) := by
  cases b <;> exact BusOnly.emit rfl rfl rfl s

theorem owReadBit_busOnly (s : State) : BusOnly s (owReadBit s).2 :=
  ((BusOnly.emit rfl rfl rfl s).trans (BusOnly.getLevel _ _)).trans (BusOnly.emit rfl rfl rfl _)

theorem owReset_busOnly (nowait : Bool) (s : State) : BusOnly s (owReset nowait s).2 := by
  have h := (BusOnly.emit (es := [.set s.ow.pin false, .delay 480, .set s.ow.pin true, .delay 70]) rfl rfl rfl s).trans
    (BusOnly.getLevel s.ow.pin _)
  cases nowait
  · exact h.trans (BusOnly.emit rfl rfl rfl _)
  · exact h

theorem owWriteByte_busOnly (v : Byte) (s : State) : BusOnly s (owWriteByte v s) :=
  BusOnly.writeBits owWriteBit_busOnly v _ s

theorem owReadByte_busOnly (s : State) : BusOnly s (owReadByte s).2 := BusOnly.readBits owReadBit_busOnly _ _ _

/-- `ow.init` writes its pin and drives the bus. -/
theorem owInit_busOnly (pin : PinId) (s : State) : BusOnly (s.withOw { s.ow with pin := pin }) (owInit pin s) :=
  BusOnly.emit rfl rfl rfl _

/-- What the bit positions of a search pass can do: drive the bus and write the ROM buffer (R212, R215). -/
theorem searchBits_busOnly (n : Nat) :
    ∀ (k lastZero : Nat) (s : State), ∃ rom, BusOnly (s.withOw { s.ow with rom := rom }) (searchBits n k lastZero s).2 := by
  induction n with
  | zero => exact fun _ _ s => ⟨s.ow.rom, BusOnly.refl _⟩
  | succ n ih =>
    intro k lastZero s
    have hb := owReadBit_busOnly s
    have hc := hb.trans (owReadBit_busOnly (owReadBit s).2)
    have how := hc.ow
    simp only [searchBits]
    split
    · exact ⟨s.ow.rom, hc⟩
    · generalize hd : searchDirection k s.ow.lastDiscrepancy _ _ _ = d
      have ht := (hc.withOw { s.ow with rom := setRomBit s.ow.rom k d }).trans (owWriteBit_busOnly d _)
      rw [how]
      obtain ⟨rom, hrom⟩ := ih (k + 1) (searchLastZero k lastZero (owReadBit s).1 (owReadBit (owReadBit s).2).1 d)
        (owWriteBit d ((owReadBit (owReadBit s).2).2.withOw { s.ow with rom := setRomBit s.ow.rom k d }))
      refine ⟨rom, ?_⟩
      rw [ht.ow] at hrom
      exact (ht.withOw { s.ow with rom := rom }).trans hrom

theorem searchBits_lastZero_le (n : Nat) :
    ∀ (k lastZero : Nat) (s : State) (z : Nat), k + n ≤ 64 → lastZero ≤ 64 →
      (searchBits n k lastZero s).1 = some z → z ≤ 64 := by
  induction n with
  | zero => intro k lastZero s z _ hz h; simp [searchBits] at h; omega
  | succ n ih =>
    intro k lastZero s z hk hz h
    simp only [searchBits] at h
    split at h
    · simp at h
    · refine ih _ _ _ z (by omega) ?_ h
      unfold searchLastZero
      split <;> omega

/-- What a search pass can do (R211-R213, R215): drive the bus, write the ROM buffer, and at its end the last discrepancy,
which stays an index or 64, and the flag. The pin and the command are kept. -/
theorem searchPass_busOnly (s : State) :
    ∃ x : OwSession, BusOnly (s.withOw x) (searchPass s).2 ∧ x.pin = s.ow.pin ∧ x.searchCommand = s.ow.searchCommand
      ∧ (s.ow.lastDiscrepancy ≤ 64 → x.lastDiscrepancy ≤ 64) := by
  simp only [searchPass]
  split
  · exact ⟨s.ow, BusOnly.refl _, rfl, rfl, id⟩
  · split
    · exact ⟨s.ow, owReset_busOnly true s, rfl, rfl, id⟩
    · have h1 := (owReset_busOnly true s).trans (owWriteByte_busOnly (owReset true s).2.ow.searchCommand.byte _)
      obtain ⟨rom, h2⟩ := searchBits_busOnly 64 0 64
        (owWriteByte (owReset true s).2.ow.searchCommand.byte (owReset true s).2)
      have hle := fun z => searchBits_lastZero_le 64 0 64
        (owWriteByte (owReset true s).2.ow.searchCommand.byte (owReset true s).2) z (by omega) (by omega)
      rw [h1.ow] at h2
      have h3 := (h1.withOw { s.ow with rom := rom }).trans h2
      split
      · exact ⟨_, h3, rfl, rfl, id⟩
      · rename_i z hz
        refine ⟨{ s.ow with
          rom := rom, lastDiscrepancy := z
          lastDeviceFlag := if z = 64 then true else s.ow.lastDeviceFlag }, ?_, rfl, rfl, fun _ => hle z hz⟩
        have h4 := h3.withOw { s.ow with
          rom := rom, lastDiscrepancy := z
          lastDeviceFlag := if z = 64 then true else s.ow.lastDeviceFlag }
        have h5 := h3.ow
        simp only [State.withOw_ow] at h5
        simpa [searchFinish, h5] using h4

/-- What `ow.find_first` can do (R210). -/
theorem owFindFirst_busOnly (cmd : SearchCommand) (s : State) :
    ∃ x : OwSession, BusOnly (s.withOw x) (owFindFirst cmd s).2 ∧ x.pin = s.ow.pin ∧ x.searchCommand = cmd
      ∧ x.lastDiscrepancy ≤ 64 := by
  obtain ⟨x, h, hp, hc, hd⟩ := searchPass_busOnly (s.withOw { s.ow with
    rom := 0#64, lastDiscrepancy := 64, lastDeviceFlag := false, searchCommand := cmd })
  exact ⟨x, h, hp, hc, hd (by simp)⟩

/-! ### The raw engine -/

theorem rawWriteBit_busOnly (b : Bool) (s : State) : BusOnly s (rawWriteBit b s).2 := by
  unfold rawWriteBit driveDataEvents
  cases s.raw.wireCount
  · exact (BusOnly.emit rfl rfl rfl s).trans (BusOnly.emit rfl rfl rfl _)
  · exact ((BusOnly.emit rfl rfl rfl s).trans (BusOnly.getLevel _ _)).trans (BusOnly.emit rfl rfl rfl _)

theorem rawReadBit_busOnly (s : State) : BusOnly s (rawReadBit s).2 := by
  unfold rawReadBit releaseDataEvents
  cases s.raw.wireCount <;>
    exact ((BusOnly.emit rfl rfl rfl s).trans (BusOnly.getLevel _ _)).trans (BusOnly.emit rfl rfl rfl _)

theorem rawStart_busOnly (s : State) : BusOnly s (rawStart s) := by
  unfold rawStart rawStartEvents driveDataEvents
  cases s.raw.wireCount <;> exact BusOnly.emit rfl rfl rfl s

theorem rawStop_busOnly (s : State) : BusOnly s (rawStop s) := by
  unfold rawStop rawStopEvents driveDataEvents
  cases s.raw.wireCount <;> exact BusOnly.emit rfl rfl rfl s

theorem rawData_busOnly (l : Bool) (s : State) : BusOnly s (rawData l s) := by
  unfold rawData driveDataEvents
  cases s.raw.wireCount <;> exact BusOnly.emit rfl rfl rfl s

theorem rawApplyConfig_busOnly (s : State) : BusOnly s (rawApplyConfig s) := by
  unfold rawApplyConfig rawConfigEvents
  cases s.raw.wireCount <;> exact BusOnly.emit rfl rfl rfl s

theorem rawCs_busOnly (l : Bool) (s : State) : BusOnly s (rawCs l s) := BusOnly.emit rfl rfl rfl s
theorem rawClock_busOnly (l : Bool) (s : State) : BusOnly s (rawClock l s) := BusOnly.emit rfl rfl rfl s
theorem rawTick_busOnly (s : State) : BusOnly s (rawTick s) := BusOnly.emit rfl rfl rfl s
theorem rawPeek_busOnly (s : State) : BusOnly s (rawPeek s).2 := BusOnly.getLevel _ s
theorem rawReadByte_busOnly (s : State) : BusOnly s (rawReadByte s).2 := BusOnly.readBits rawReadBit_busOnly _ _ _

theorem rawWriteByte_busOnly (v : Byte) (s : State) : BusOnly s (rawWriteByte v s).2 :=
  BusOnly.exchangeBits rawWriteBit_busOnly v _ _ s

/-- `raw.init` sets the defaults and applies them (R260). -/
theorem rawInit_busOnly (s : State) : BusOnly (s.withRaw rawDefaults) (rawInit s) := rawApplyConfig_busOnly _

/-! ### The debug-wire engine -/

theorem dwWriteBit_busOnly (b : Bool) (s : State) : BusOnly s (dwWriteBit b s) := BusOnly.emit rfl rfl rfl s

theorem dwWriteByte_busOnly (v : Byte) (s : State) : BusOnly s (dwWriteByte v s) :=
  BusOnly.writeBits dwWriteBit_busOnly v _ s

theorem dwWriteBytes_cons (b : Byte) (bs : List Byte) (s : State) :
    dwWriteBytes (b :: bs) s = dwWriteBytes bs (dwWriteByte b s) := by
  simp only [dwWriteBytes, List.foldl_cons]

theorem dwWriteBytes_busOnly (bytes : List Byte) : ∀ s : State, BusOnly s (dwWriteBytes bytes s) := by
  induction bytes with
  | nil => exact BusOnly.refl
  | cons b bs ih =>
    intro s
    rw [dwWriteBytes_cons]
    exact (dwWriteByte_busOnly b s).trans (ih (dwWriteByte b s))

theorem dwReadBit_busOnly (s : State) : BusOnly s (dwReadBit s).2 :=
  ((BusOnly.emit rfl rfl rfl s).trans (BusOnly.getLevel _ _)).trans (BusOnly.emit rfl rfl rfl _)

theorem dwReadByte_busOnly (s : State) : BusOnly s (dwReadByte s).2 := BusOnly.readBits dwReadBit_busOnly _ _ _

theorem dwPulses_busOnly (ck : PinId) (t : Nat) (n : Nat) : ∀ s : State, BusOnly s (emit (pulsesEvents ck t n) s) := by
  induction n with
  | zero => exact BusOnly.refl
  | succ n ih =>
    intro s
    have h := (BusOnly.emit (es := pulseEvents ck t) rfl rfl rfl s).trans (ih _)
    simpa [pulsesEvents, List.replicate_succ] using h

theorem dwRound_busOnly (s : State) :
    BusOnly s (emit (pulsesEvents s.dw.clockPin Config.dwClkHalfUs Config.dwPulsesPerRound) s) :=
  dwPulses_busOnly _ _ _ s

/-- What a ready wait can do (R326): drive the bus, and either answer ready with the session as it was, or answer not
ready with `NOT_WIRED` latched and debug mode left. -/
theorem dwWaitReady_busOnly :
    ∀ (rounds : Nat) (waited : Bool) (s : State),
      ((dwWaitReady rounds waited s).1 = true ∧ BusOnly s (dwWaitReady rounds waited s).2) ∨
      ((dwWaitReady rounds waited s).1 = false ∧
        BusOnly (s.withDw { s.dw with lastError := .notWired, inDebug := false }) (dwWaitReady rounds waited s).2)
  | 0, _, _ => .inr ⟨rfl, BusOnly.refl _⟩
  | rounds + 1, waited, s => by
    have h1 := BusOnly.getLevel s.dw.dataPin s
    simp only [dwWaitReady]
    split
    · have h2 := h1.trans (dwRound_busOnly (getLevel s.dw.dataPin s).2)
      rw [h1.dw] at h2
      rcases dwWaitReady_busOnly rounds true
        (emit (pulsesEvents s.dw.clockPin Config.dwClkHalfUs Config.dwPulsesPerRound) (getLevel s.dw.dataPin s).2)
        with h | h
      · exact .inl ⟨h.1, h2.trans h.2⟩
      · refine .inr ⟨h.1, ?_⟩
        have h3 := h.2
        rw [h2.dw] at h3
        exact (h2.withDw _).trans h3
    · refine .inl ⟨rfl, ?_⟩
      cases waited
      · exact h1
      · exact h1.trans (BusOnly.emit rfl rfl rfl _)

/-- The session fields a debug operation can write: the last error, and the debug bit, which it can only clear. -/
def DwKept (d x : DwSession) : Prop :=
  x.table = d.table ∧ x.resetPin = d.resetPin ∧ x.clockPin = d.clockPin ∧ x.dataPin = d.dataPin ∧ x.active = d.active
    ∧ (x.inDebug = true → d.inDebug = true)

theorem DwKept.refl (d : DwSession) : DwKept d d := ⟨rfl, rfl, rfl, rfl, rfl, id⟩

/-- What the part of a debug operation before its reply can do (R328). -/
theorem dwRequest_busOnly (slot : Fin 16) (args : List Byte) (s : State) :
    ∃ x, DwKept s.dw x ∧ BusOnly (s.withDw x) (dwRequest slot args s).2 := by
  simp only [dwRequest, dwCheck]
  split
  · exact ⟨{ s.dw with lastError := .notActive }, ⟨rfl, rfl, rfl, rfl, rfl, id⟩, BusOnly.refl _⟩
  · split
    · exact ⟨{ s.dw with lastError := .notDebugging }, ⟨rfl, rfl, rfl, rfl, rfl, id⟩, BusOnly.refl _⟩
    · simp only [if_true]
      have h1 := ((BusOnly.emit (es := [.setOutput s.dw.dataPin false]) rfl rfl rfl s).trans
        (dwWriteBytes_busOnly (s.tableByte slot :: args) _))
      have h2 := h1.trans (BusOnly.emit (es := [.setInput s.dw.dataPin]) rfl rfl rfl _)
      unfold dwSwitchRead
      rw [h1.dw]
      rcases dwWaitReady_busOnly Config.dwWaitRounds false (emit [.setInput s.dw.dataPin]
        (dwWriteBytes (s.tableByte slot :: args) (emit [.setOutput s.dw.dataPin false] s))) with h | h
      · exact ⟨s.dw, DwKept.refl _, h2.trans h.2⟩
      · have h3 := h.2
        rw [h2.dw] at h3
        exact ⟨{ s.dw with lastError := .notWired, inDebug := false }, ⟨rfl, rfl, rfl, rfl, rfl, by simp⟩,
          (h2.withDw _).trans h3⟩

/-- What a debug operation with an 8-bit result can do. -/
theorem dwOp8_busOnly (slot : Fin 16) (args : List Byte) (s : State) :
    ∃ x, DwKept s.dw x ∧ BusOnly (s.withDw x) (dwOp8 slot args s).2 := by
  obtain ⟨x, hx, h⟩ := dwRequest_busOnly slot args s
  refine ⟨x, hx, ?_⟩
  simp only [dwOp8]
  split
  · exact h.trans (dwReadByte_busOnly _)
  · exact h

/-- What a debug operation with a 16-bit result can do. -/
theorem dwOp16_busOnly (slot : Fin 16) (args : List Byte) (s : State) :
    ∃ x, DwKept s.dw x ∧ BusOnly (s.withDw x) (dwOp16 slot args s).2 := by
  obtain ⟨x, hx, h⟩ := dwRequest_busOnly slot args s
  refine ⟨x, hx, ?_⟩
  simp only [dwOp16]
  split
  · exact (h.trans (dwReadByte_busOnly _)).trans (dwReadByte_busOnly _)
  · exact h

/-- What `dw.exit` can do (R341): a resume, and out of debug mode. -/
theorem dwExit_busOnly (s : State) : ∃ x, DwKept s.dw x ∧ x.inDebug = false ∧ BusOnly (s.withDw x) (dwExit s).2 := by
  obtain ⟨x, hx, h⟩ := dwOp8_busOnly slotResume [] s
  refine ⟨{ x with inDebug := false }, ⟨hx.1, hx.2.1, hx.2.2.1, hx.2.2.2.1, hx.2.2.2.2.1, by simp⟩, rfl, ?_⟩
  have h2 := h.withDw { x with inDebug := false }
  have h3 := h.dw
  simp only [State.withDw_dw] at h3
  simpa [dwExit, dwResume, h3] using h2

/-- What `dw.enter` can do (R323). -/
theorem dwEnter_busOnly (s : State) :
    ∃ x : DwSession, x.table = s.dw.table ∧ x.active = s.dw.active ∧ (x.inDebug = true → x.active = true ∨ s.dw.inDebug = true)
      ∧ BusOnly (s.withDw x) (dwEnter s) := by
  unfold dwEnter
  split
  · exact ⟨{ s.dw with lastError := .notActive }, rfl, rfl, .inr, BusOnly.refl _⟩
  · rename_i h
    exact ⟨{ s.dw with inDebug := true, lastError := .none }, rfl, rfl, fun _ => .inl (by simpa using h),
      BusOnly.emit rfl rfl rfl _⟩

/-- `dw.init` loads the default table, leaves debug mode, clears the error and drives its pins (R322). -/
theorem dwInit_busOnly (reset clock data : PinId) (s : State) :
    BusOnly
      (s.withDw { table := Config.dwDefaultTable, resetPin := reset, clockPin := clock, dataPin := data,
                  lastError := .none, active := true, inDebug := false })
      (dwInit reset clock data s) := BusOnly.emit rfl rfl rfl _

/-- What a table patch can do (R342): write the table, and answer the version. -/
theorem dwUpdateTable_eq (bytes : List Byte) (offset length : Nat) (s : State) :
    dwUpdateTable bytes offset length s =
      let t := s.withDw { s.dw with
        table := if offset + length > 16 then s.dw.table else patchTable s.dw.table offset (bytes.take length) }
      (t.tableByte 0, t) := by
  unfold dwUpdateTable dwInstrVersion slotVersion
  split <;> simp_all [State.withDw, State.tableByte]

end Sys2Proof.Machine
end

