-- ==== Sys2Proof/Laws/Framer.lean ====
section
/-! SUPPORT. What the framer's own operations can do, said once: a receive, a send and what follows it, an engine operation
called through the port, a payload byte, and the leaving of a sub-mode. -/

namespace Sys2Proof.Machine

/-! ### Receiving -/

/-- A receive takes one result from the host and records it (R394). -/
theorem receive_some {s t : State} {r : RecvResult} (h : receive s = some (r, t)) :
    ∃ rest, s.env.rx = r :: rest ∧
      t = { s with env := { s.env with rx := rest }, trace := .recv Config.recvTimeout r :: s.trace } := by
  unfold receive at h
  split at h
  · cases h
  · rename_i r' rest hrx
    obtain ⟨rfl, rfl⟩ := Prod.mk.inj (Option.some.inj h)
    exact ⟨rest, hrx, rfl⟩

/-- Waiting for input in a bit-bang mode: one of the four outcomes of a receive (R394, R395). -/
theorem awaitInbuf_cases (s : State) :
    (s.env.rx = [] ∧ awaitInbuf s = s) ∨
    ∃ r rest, s.env.rx = r :: rest ∧
      awaitInbuf s =
        let t : State := { s with env := { s.env with rx := rest }, trace := .recv Config.recvTimeout r :: s.trace }
        match r with
        | .chunk b bs => t.withInbuf (b :: bs)
        | .timeout => t
        | .disconnect => transportFault t := by
  unfold awaitInbuf receive
  cases h : s.env.rx with
  | nil => exact .inl ⟨rfl, rfl⟩
  | cons r rest => exact .inr ⟨r, rest, rfl, by cases r <;> rfl⟩

/-- Waiting for input in the debug proxy (R461, R464). -/
theorem awaitAcc_cases (s : State) :
    (s.env.rx = [] ∧ awaitAcc s = s) ∨
    ∃ r rest, s.env.rx = r :: rest ∧
      awaitAcc s =
        let t : State := { s with env := { s.env with rx := rest }, trace := .recv Config.recvTimeout r :: s.trace }
        match r with
        | .chunk b bs => t.withAcc (s.acc ++ b :: bs)
        | .timeout => t
        | .disconnect => transportFault t := by
  unfold awaitAcc receive
  cases h : s.env.rx with
  | nil => exact .inl ⟨rfl, rfl⟩
  | cons r rest => exact .inr ⟨r, rest, rfl, by cases r <;> rfl⟩

/-! ### Sending -/

/-- A send either goes on after one accepted `Send`, or is a `TransportFault` after one failed `Send` (R527). -/
theorem sendThen_cases (bs : List Byte) (k : State → State) (s : State) :
    (s.env.sendResult = .sent ∧ sendThen bs k s = k (s.sending bs .sent)) ∨
    (s.env.sendResult ≠ .sent ∧
      sendThen bs k s = transportFault (s.sending bs s.env.sendResult)) := by
  by_cases h : s.env.sendResult = .sent
  · exact .inl ⟨h, sendThen_sent h⟩
  · exact .inr ⟨h, sendThen_failed h⟩

/-- A reply is a send with nothing after it. -/
theorem reply_cases (bs : List Byte) (s : State) :
    (s.env.sendResult = .sent ∧ reply bs s = s.sending bs .sent) ∨
    (s.env.sendResult ≠ .sent ∧ reply bs s = transportFault (s.sending bs s.env.sendResult)) :=
  sendThen_cases bs id s

/-! ### Engine operations through the port (R416) -/

/-- The sessions an engine operation can leave behind: the raw session as it was or at its defaults (R260), a legal last
discrepancy where it was legal (R40), and a debug-wire session that is active if it was, and in debug mode only if it is
active or was in debug mode (R51-R53). -/
def SessionsKept (s : State) (ow : OwSession) (raw : RawSession) (dw : DwSession) : Prop :=
  (raw = s.raw ∨ raw = rawDefaults)
    ∧ (s.ow.lastDiscrepancy ≤ 64 → ow.lastDiscrepancy ≤ 64)
    ∧ (s.dw.active = true → dw.active = true)
    ∧ (dw.inDebug = true → dw.active = true ∨ s.dw.inDebug = true)

/-- What an engine operation can do: drive the bus and write the sessions, nothing else. -/
def EngineOnly (s t : State) : Prop :=
  ∃ i2c ow raw dw, SessionsKept s ow raw dw ∧ BusOnly { s with i2c := i2c, ow := ow, raw := raw, dw := dw } t

theorem EngineOnly.of_busOnly {s t : State} (h : BusOnly s t) : EngineOnly s t :=
  ⟨s.i2c, s.ow, s.raw, s.dw, ⟨.inl rfl, id, id, .inr⟩, h⟩

theorem EngineOnly.of_i2c {s t : State} {x : I2cSession} (h : BusOnly (s.withI2c x) t) : EngineOnly s t :=
  ⟨x, s.ow, s.raw, s.dw, ⟨.inl rfl, id, id, .inr⟩, h⟩

theorem EngineOnly.of_ow {s t : State} {x : OwSession} (hx : s.ow.lastDiscrepancy ≤ 64 → x.lastDiscrepancy ≤ 64)
    (h : BusOnly (s.withOw x) t) : EngineOnly s t :=
  ⟨s.i2c, x, s.raw, s.dw, ⟨.inl rfl, hx, id, .inr⟩, h⟩

theorem EngineOnly.of_raw {s t : State} (h : BusOnly (s.withRaw rawDefaults) t) : EngineOnly s t :=
  ⟨s.i2c, s.ow, rawDefaults, s.dw, ⟨.inr rfl, id, id, .inr⟩, h⟩

theorem EngineOnly.of_dw {s t : State} {x : DwSession} (ha : s.dw.active = true → x.active = true)
    (hd : x.inDebug = true → x.active = true ∨ s.dw.inDebug = true) (h : BusOnly (s.withDw x) t) : EngineOnly s t :=
  ⟨s.i2c, s.ow, s.raw, x, ⟨.inl rfl, id, ha, hd⟩, h⟩

theorem EngineOnly.of_dwKept {s t : State} (h : ∃ x, DwKept s.dw x ∧ BusOnly (s.withDw x) t) : EngineOnly s t := by
  obtain ⟨x, hx, h⟩ := h
  exact EngineOnly.of_dw (by rw [hx.2.2.2.2.1]; exact id) (fun hi => .inr (hx.2.2.2.2.2 hi)) h

/-- Every operation of the engine port. -/
theorem engineOp_engineOnly (c : EngineCall) (s : State) : EngineOnly s (engineOp c s).2 := by
  cases c with
  | i2cInit clock data => exact .of_i2c (i2cInit_busOnly clock data s)
  | i2cStart => exact .of_busOnly (i2cStart_busOnly s)
  | i2cStop => exact .of_busOnly (i2cStop_busOnly s)
  | i2cWriteBit b => exact .of_busOnly (i2cWriteBit_busOnly b s)
  | i2cReadBit => exact .of_busOnly (i2cReadBit_busOnly s)
  | i2cReadByte => exact .of_busOnly (i2cReadByte_busOnly s)
  | i2cWriteByte v => exact .of_busOnly (i2cWriteByte_busOnly v s)
  | i2cPullupsOk => exact .of_busOnly (i2cPullupsOk_busOnly s)
  | owInit pin => exact .of_ow (x := { s.ow with pin := pin }) id (owInit_busOnly pin s)
  | owWriteBit b => exact .of_busOnly (owWriteBit_busOnly b s)
  | owReadBit => exact .of_busOnly (owReadBit_busOnly s)
  | owReset nowait => exact .of_busOnly (owReset_busOnly nowait s)
  | owWriteByte v => exact .of_busOnly (owWriteByte_busOnly v s)
  | owReadByte => exact .of_busOnly (owReadByte_busOnly s)
  | crc8 bytes => exact .of_busOnly (.refl s)
  | owFindFirst cmd =>
    obtain ⟨x, h, -, -, hd⟩ := owFindFirst_busOnly cmd s
    exact .of_ow (fun _ => hd) h
  | owFindNext =>
    obtain ⟨x, h, -, -, hd⟩ := searchPass_busOnly s
    exact .of_ow hd h
  | rawInit => exact .of_raw (rawInit_busOnly s)
  | rawApplyConfig => exact .of_busOnly (rawApplyConfig_busOnly s)
  | rawStart => exact .of_busOnly (rawStart_busOnly s)
  | rawStop => exact .of_busOnly (rawStop_busOnly s)
  | rawCs level => exact .of_busOnly (rawCs_busOnly level s)
  | rawTick => exact .of_busOnly (rawTick_busOnly s)
  | rawWriteBit b => exact .of_busOnly (rawWriteBit_busOnly b s)
  | rawReadBit => exact .of_busOnly (rawReadBit_busOnly s)
  | rawReadByte => exact .of_busOnly (rawReadByte_busOnly s)
  | rawWriteByte v => exact .of_busOnly (rawWriteByte_busOnly v s)
  | rawPeek => exact .of_busOnly (rawPeek_busOnly s)
  | rawClock level => exact .of_busOnly (rawClock_busOnly level s)
  | rawData level => exact .of_busOnly (rawData_busOnly level s)
  | dwInit reset clock data => exact .of_dw (fun _ => rfl) (fun _ => .inl rfl) (dwInit_busOnly reset clock data s)
  | dwEnter =>
    obtain ⟨x, -, ha, hd, h⟩ := dwEnter_busOnly s
    exact .of_dw (by rw [ha]; exact id) hd h
  | dwHalt => exact .of_dwKept (dwOp8_busOnly slotHalt [] s)
  | dwResume => exact .of_dwKept (dwOp8_busOnly slotResume [] s)
  | dwStep => exact .of_dwKept (dwOp8_busOnly slotStep [] s)
  | dwReadConfig => exact .of_dwKept (dwOp8_busOnly slotRdConfig [] s)
  | dwWriteConfig c => exact .of_dwKept (dwOp8_busOnly slotWrConfig [c] s)
  | dwChipErase => exact .of_dwKept (dwOp8_busOnly slotErase [] s)
  | dwExec1 a0 => exact .of_dwKept (dwOp8_busOnly slotInstr1 [a0] s)
  | dwExec2 a0 a1 => exact .of_dwKept (dwOp8_busOnly slotInstr2 [a0, a1] s)
  | dwExec3 a0 a1 a2 => exact .of_dwKept (dwOp8_busOnly slotInstr3 [a0, a1, a2] s)
  | dwGetChipId => exact .of_dwKept (dwOp16_busOnly slotChipId [] s)
  | dwGetPc => exact .of_dwKept (dwOp16_busOnly slotPc [] s)
  | dwReadStatus => exact .of_dwKept (dwOp8_busOnly slotStatus [] s)
  | dwExit =>
    obtain ⟨x, hx, -, h⟩ := dwExit_busOnly s
    exact .of_dwKept ⟨x, hx, h⟩
  | dwUpdateTable p =>
    refine .of_dw (x := { s.dw with
      table :=
        if p.offset.toNat + p.length.toNat > 16 then s.dw.table
        else patchTable s.dw.table p.offset.toNat (p.bytes.take p.length.toNat) })
      id .inr ?_
    rw [engineOp, dwUpdateTable_eq]
    exact BusOnly.refl _
  | dwInstrVersion => exact .of_busOnly (.refl s)
  | dwError => exact .of_busOnly (.refl s)

/-- A payload byte's engine call only drives the bus. -/
theorem bulkUnit_busOnly (m : BulkMode) (b : Byte) (s : State) : BusOnly s (bulkUnit m b s).2 := by
  cases m with
  | i2c => exact i2cWriteByte_busOnly b s
  | ow => exact owWriteByte_busOnly b s
  | raw => exact rawWriteByte_busOnly b s

end Sys2Proof.Machine
end

