-- ==== Sys2Proof/Laws/PerInstr.lean ====
section
/-! SUPPORT. The family of per-instruction lemmas `Encoding`: how long each command is and where it is decoded (spec
30_encoding.md R110, R133, R136). -/

namespace Sys2Proof.Laws.Encoding

/-- A command is one opcode byte, or the four bytes of a frame in `CCPROXY` mode (R133); no command belongs to `SHELL`
mode (R416); only a selector's command depends on where its byte stands (R136). -/
def Statement (i : Instr) : Prop :=
  (encode i).length = (if i.context.mode = .ccproxy then 4 else 1)
    ∧ i.context.mode ≠ .shell
    ∧ (i.context.leading = true → i.context.mode = .select)

theorem selCcproxy : Statement .selCcproxy := ⟨rfl, nofun, fun _ => rfl⟩
theorem selShell : Statement .selShell := ⟨rfl, nofun, fun _ => rfl⟩
theorem selZero : Statement .selZero := ⟨rfl, nofun, nofun⟩
theorem selOther (b : Byte) : Statement (.selOther b) := ⟨rfl, nofun, nofun⟩
theorem bbReset : Statement .bbReset := ⟨rfl, nofun, nofun⟩
theorem bbVersion : Statement .bbVersion := ⟨rfl, nofun, nofun⟩
theorem bbI2c : Statement .bbI2c := ⟨rfl, nofun, nofun⟩
theorem bbOw : Statement .bbOw := ⟨rfl, nofun, nofun⟩
theorem bbRaw : Statement .bbRaw := ⟨rfl, nofun, nofun⟩
theorem bbShell : Statement .bbShell := ⟨rfl, nofun, nofun⟩
theorem bbSelftest : Statement .bbSelftest := ⟨rfl, nofun, nofun⟩
theorem bbSelftestLong : Statement .bbSelftestLong := ⟨rfl, nofun, nofun⟩
theorem bbPindir (a o d m c : Bool) : Statement (.bbPindir a o d m c) := ⟨rfl, nofun, nofun⟩
theorem bbPinset (p q a o d m c : Bool) : Statement (.bbPinset p q a o d m c) := ⟨rfl, nofun, nofun⟩
theorem bbUnknown (op : Byte) : Statement (.bbUnknown op) := ⟨rfl, nofun, nofun⟩
theorem i2cExit : Statement .i2cExit := ⟨rfl, nofun, nofun⟩
theorem i2cVersion : Statement .i2cVersion := ⟨rfl, nofun, nofun⟩
theorem i2cStart : Statement .i2cStart := ⟨rfl, nofun, nofun⟩
theorem i2cStop : Statement .i2cStop := ⟨rfl, nofun, nofun⟩
theorem i2cRead : Statement .i2cRead := ⟨rfl, nofun, nofun⟩
theorem i2cAck : Statement .i2cAck := ⟨rfl, nofun, nofun⟩
theorem i2cNack : Statement .i2cNack := ⟨rfl, nofun, nofun⟩
theorem i2cWrite (n : BitVec 4) : Statement (.i2cWrite n) := ⟨rfl, nofun, nofun⟩
theorem i2cPeriph (w x y z : Bool) : Statement (.i2cPeriph w x y z) := ⟨rfl, nofun, nofun⟩
theorem i2cSpeed (tier : BitVec 2) : Statement (.i2cSpeed tier) := ⟨rfl, nofun, nofun⟩
theorem i2cUnknown (op : Byte) : Statement (.i2cUnknown op) := ⟨rfl, nofun, nofun⟩
theorem owExit : Statement .owExit := ⟨rfl, nofun, nofun⟩
theorem owVersion : Statement .owVersion := ⟨rfl, nofun, nofun⟩
theorem owReset : Statement .owReset := ⟨rfl, nofun, nofun⟩
theorem owRead : Statement .owRead := ⟨rfl, nofun, nofun⟩
theorem owSearchRom : Statement .owSearchRom := ⟨rfl, nofun, nofun⟩
theorem owSearchAlarm : Statement .owSearchAlarm := ⟨rfl, nofun, nofun⟩
theorem owWrite (n : BitVec 4) : Statement (.owWrite n) := ⟨rfl, nofun, nofun⟩
theorem owPeriph (w x y z : Bool) : Statement (.owPeriph w x y z) := ⟨rfl, nofun, nofun⟩
theorem owUnknown (op : Byte) : Statement (.owUnknown op) := ⟨rfl, nofun, nofun⟩
theorem rawExit : Statement .rawExit := ⟨rfl, nofun, nofun⟩
theorem rawVersion : Statement .rawVersion := ⟨rfl, nofun, nofun⟩
theorem rawStart : Statement .rawStart := ⟨rfl, nofun, nofun⟩
theorem rawStop : Statement .rawStop := ⟨rfl, nofun, nofun⟩
theorem rawCsLow : Statement .rawCsLow := ⟨rfl, nofun, nofun⟩
theorem rawCsHigh : Statement .rawCsHigh := ⟨rfl, nofun, nofun⟩
theorem rawReadByte : Statement .rawReadByte := ⟨rfl, nofun, nofun⟩
theorem rawReadBit : Statement .rawReadBit := ⟨rfl, nofun, nofun⟩
theorem rawPeek : Statement .rawPeek := ⟨rfl, nofun, nofun⟩
theorem rawTick : Statement .rawTick := ⟨rfl, nofun, nofun⟩
theorem rawClkLow : Statement .rawClkLow := ⟨rfl, nofun, nofun⟩
theorem rawClkHigh : Statement .rawClkHigh := ⟨rfl, nofun, nofun⟩
theorem rawDatLow : Statement .rawDatLow := ⟨rfl, nofun, nofun⟩
theorem rawDatHigh : Statement .rawDatHigh := ⟨rfl, nofun, nofun⟩
theorem rawWrite (n : BitVec 4) : Statement (.rawWrite n) := ⟨rfl, nofun, nofun⟩
theorem rawPeriph (w x y z : Bool) : Statement (.rawPeriph w x y z) := ⟨rfl, nofun, nofun⟩
theorem rawSpeed (tier : BitVec 2) : Statement (.rawSpeed tier) := ⟨rfl, nofun, nofun⟩
theorem rawConfig (w x y z : Bool) : Statement (.rawConfig w x y z) := ⟨rfl, nofun, nofun⟩
theorem rawUnknown (op : Byte) : Statement (.rawUnknown op) := ⟨rfl, nofun, nofun⟩
theorem ccPing (a0 a1 a2 : Byte) : Statement (.ccPing a0 a1 a2) := ⟨rfl, nofun, nofun⟩
theorem ccEnter (a0 a1 a2 : Byte) : Statement (.ccEnter a0 a1 a2) := ⟨rfl, nofun, nofun⟩
theorem ccExit (a0 a1 a2 : Byte) : Statement (.ccExit a0 a1 a2) := ⟨rfl, nofun, nofun⟩
theorem ccChipId (a0 a1 a2 : Byte) : Statement (.ccChipId a0 a1 a2) := ⟨rfl, nofun, nofun⟩
theorem ccStatus (a0 a1 a2 : Byte) : Statement (.ccStatus a0 a1 a2) := ⟨rfl, nofun, nofun⟩
theorem ccPc (a0 a1 a2 : Byte) : Statement (.ccPc a0 a1 a2) := ⟨rfl, nofun, nofun⟩
theorem ccStep (a0 a1 a2 : Byte) : Statement (.ccStep a0 a1 a2) := ⟨rfl, nofun, nofun⟩
theorem ccExec1 (a0 a1 a2 : Byte) : Statement (.ccExec1 a0 a1 a2) := ⟨rfl, nofun, nofun⟩
theorem ccExec2 (a0 a1 a2 : Byte) : Statement (.ccExec2 a0 a1 a2) := ⟨rfl, nofun, nofun⟩
theorem ccExec3 (a0 a1 a2 : Byte) : Statement (.ccExec3 a0 a1 a2) := ⟨rfl, nofun, nofun⟩
theorem ccBurstWrite (a0 a1 a2 : Byte) : Statement (.ccBurstWrite a0 a1 a2) := ⟨rfl, nofun, nofun⟩
theorem ccRdCfg (a0 a1 a2 : Byte) : Statement (.ccRdCfg a0 a1 a2) := ⟨rfl, nofun, nofun⟩
theorem ccWrCfg (a0 a1 a2 : Byte) : Statement (.ccWrCfg a0 a1 a2) := ⟨rfl, nofun, nofun⟩
theorem ccChipErase (a0 a1 a2 : Byte) : Statement (.ccChipErase a0 a1 a2) := ⟨rfl, nofun, nofun⟩
theorem ccResume (a0 a1 a2 : Byte) : Statement (.ccResume a0 a1 a2) := ⟨rfl, nofun, nofun⟩
theorem ccHalt (a0 a1 a2 : Byte) : Statement (.ccHalt a0 a1 a2) := ⟨rfl, nofun, nofun⟩
theorem ccInstrVer (a0 a1 a2 : Byte) : Statement (.ccInstrVer a0 a1 a2) := ⟨rfl, nofun, nofun⟩
theorem ccInstrUpd (a0 a1 a2 : Byte) : Statement (.ccInstrUpd a0 a1 a2) := ⟨rfl, nofun, nofun⟩
theorem ccUnknown (op a0 a1 a2 : Byte) : Statement (.ccUnknown op a0 a1 a2) := ⟨rfl, nofun, nofun⟩

end Sys2Proof.Laws.Encoding
end

