-- ==== Sys2Proof/Tests/Slice0.lean ====
section
/-! SUPPORT. Tests of the model: an ill-formed term for each check of WellFormed, words written out from the maps of
spec/30_encoding.md R128-R136 for every constructor, small one-step vectors of spec/95_test_vectors.md, and a witness for
the hypotheses of every statement. -/

namespace Sys2Proof.Tests

open Sys2Proof Sys2Proof.Machine

/-! ### Helpers -/

/-- The test table of spec/95_test_vectors.md's preamble. -/
def table : Vector Byte 16 :=
  #v[0x01#8, 0x40#8, 0x48#8, 0x20#8, 0x18#8, 0x51#8, 0x52#8, 0x53#8, 0x68#8, 0x28#8, 0x34#8, 0x58#8, 0x10#8, 0#8, 0#8, 0#8]

/-- A debug-wire session with the test table on three pins without a role. -/
def session (active inDebug : Bool) (e : DwError) : DwSession :=
  { table := table, resetPin := .gpio 0, clockPin := .gpio 1, dataPin := .gpio 2
    lastError := e, active := active, inDebug := inDebug }

/-- A block in mode `m` whose next draws are `levels`, with an active debug-wire session. -/
def bench (m : Mode) (levels : List Bool) : State :=
  { State.reset with
    mode := m, firstChunk := m == .select, dw := session true false .none
    env := { State.reset.env with levels := levels } }

/-- A bench of the debug proxy in debug mode. -/
def inDebug (levels : List Bool) : State := { bench .ccproxy levels with dw := session true true .none }

/-- A state whose next `Send` has the result `r`. -/
def answering (r : SendResult) (s : State) : State := { s with env := { s.env with tx := [r] } }

/-- A state with the given receives to come. -/
def receiving (rs : List RecvResult) (s : State) : State := { s with env := { s.env with rx := rs } }

/-- The state of a next outcome. -/
def reached : Host.Outcome State Fault Refusal → Option State
  | .next t => some t
  | .fault _ => none
  | .refused _ => none

/-- The `Send`s of a next outcome from an empty trace, in the order in which they were issued. -/
def sent (o : Host.Outcome State Fault Refusal) : Option (List (List Byte)) :=
  (reached o).map fun t => sentUnits t.trace.reverse

/-- The events of a next outcome from an empty trace, but for its `Send`s. -/
def events (o : Host.Outcome State Fault Refusal) : Option (List Event) :=
  (reached o).map fun t => t.trace.reverse.filter fun e => !e.isSend

/-- A draw script: the levels `bs` spelled as digits. -/
def lv (bs : List Nat) : List Bool := bs.map (· == 1)

/-- What a command sends from a bench with the draws `levels`. -/
def answer (i : Instr) (levels : List Nat := []) : Option (List (List Byte)) :=
  sent (exec i (bench i.context.mode (lv levels)))

/-- The events of a command from a bench with the draws `levels`. -/
def does (i : Instr) (levels : List Nat := []) : Option (List Event) :=
  events (exec i (bench i.context.mode (lv levels)))

/-- The mode after a command. -/
def modeAfter (i : Instr) : Option Mode := (reached (exec i (bench i.context.mode []))).map (·.mode)

/-- What one step sends from `s`. -/
def stepAnswer (s : State) : Option (List (List Byte)) := sent (step s)

/-- What a proxy command sends in debug mode. -/
def debugAnswer (i : Instr) (levels : List Nat) : Option (List (List Byte)) := sent (exec i (inDebug (lv levels)))

/-! ### WellFormed: each check refuses a term (R392, R409, R175, R238, R298, R483) -/

theorem test_wf_selOther : (Instr.selOther 0x00#8).wellFormed = false := by decide
theorem test_wf_bbUnknown : (Instr.bbUnknown 0x10#8).wellFormed = false := by decide
theorem test_wf_i2cUnknown : (Instr.i2cUnknown 0x63#8).wellFormed = false := by decide
theorem test_wf_owUnknown : (Instr.owUnknown 0x4F#8).wellFormed = false := by decide
theorem test_wf_rawUnknown : (Instr.rawUnknown 0x80#8).wellFormed = false := by decide
theorem test_wf_ccUnknown : (Instr.ccUnknown 0xF1#8 0#8 0#8 0#8).wellFormed = false := by decide

/-! ### Decoding: a word from the spec's maps for every constructor -/

/-- What `m`'s map reads from the bytes. -/
def reads (m : Mode) (bytes : List Byte) (leading : Bool := false) : Option Instr :=
  match decode ⟨m, leading⟩ bytes with
  | .ok (i, _) => some i
  | .error _ => none

/-- R136. -/
theorem test_decode_select :
    reads .select [0b11110000#8] true = some .selCcproxy ∧ reads .select [0b00001101#8] true = some .selShell
      ∧ reads .select [0b00000000#8] = some .selZero ∧ reads .select [0b11110000#8] = some (.selOther 0xF0#8)
      ∧ reads .select [0b11110010#8] true = some (.selOther 0xF2#8) := by decide

/-- R128. -/
theorem test_decode_bbio_fixed :
    reads .bbio [0b00000000#8] = some .bbReset ∧ reads .bbio [0b00000001#8] = some .bbVersion
      ∧ reads .bbio [0b00000010#8] = some .bbI2c ∧ reads .bbio [0b00000100#8] = some .bbOw
      ∧ reads .bbio [0b00000101#8] = some .bbRaw ∧ reads .bbio [0b00001111#8] = some .bbShell
      ∧ reads .bbio [0b00010000#8] = some .bbSelftest ∧ reads .bbio [0b00010001#8] = some .bbSelftestLong
      ∧ reads .bbio [0b00010010#8] = some (.bbUnknown 0x12#8) := by decide

/-- R128, R116, R117: the pin letters from bit 4 to bit 0 are AUX, MOSI, CLK, MISO, CS. -/
theorem test_decode_bbio_pins :
    reads .bbio [0b01010000#8] = some (.bbPindir true false false false false)
      ∧ reads .bbio [0b01001000#8] = some (.bbPindir false true false false false)
      ∧ reads .bbio [0b01000001#8] = some (.bbPindir false false false false true)
      ∧ reads .bbio [0b10000100#8] = some (.bbPinset false false false false true false false)
      ∧ reads .bbio [0b11000010#8] = some (.bbPinset true false false false false true false)
      ∧ reads .bbio [0b10111111#8] = some (.bbPinset false true true true true true true)
      ∧ reads .bbio [0b01100000#8] = some (.bbUnknown 0x60#8) := by decide

/-- R129. -/
theorem test_decode_i2c :
    reads .i2c [0b00000000#8] = some .i2cExit ∧ reads .i2c [0b00000001#8] = some .i2cVersion
      ∧ reads .i2c [0b00000010#8] = some .i2cStart ∧ reads .i2c [0b00000011#8] = some .i2cStop
      ∧ reads .i2c [0b00000100#8] = some .i2cRead ∧ reads .i2c [0b00000110#8] = some .i2cAck
      ∧ reads .i2c [0b00000111#8] = some .i2cNack ∧ reads .i2c [0b00011111#8] = some (.i2cWrite 15)
      ∧ reads .i2c [0b01001010#8] = some (.i2cPeriph true false true false)
      ∧ reads .i2c [0b01100011#8] = some (.i2cSpeed 3) ∧ reads .i2c [0b01100100#8] = some (.i2cUnknown 0x64#8) := by
  decide

/-- R129. -/
theorem test_decode_ow :
    reads .ow [0b00000000#8] = some .owExit ∧ reads .ow [0b00000001#8] = some .owVersion
      ∧ reads .ow [0b00000010#8] = some .owReset ∧ reads .ow [0b00000100#8] = some .owRead
      ∧ reads .ow [0b00001000#8] = some .owSearchRom ∧ reads .ow [0b00001001#8] = some .owSearchAlarm
      ∧ reads .ow [0b00010010#8] = some (.owWrite 2)
      ∧ reads .ow [0b01000001#8] = some (.owPeriph false false false true)
      ∧ reads .ow [0b01100001#8] = some (.owUnknown 0x61#8) := by decide

/-- R129. -/
theorem test_decode_raw_fixed :
    reads .raw [0b00000000#8] = some .rawExit ∧ reads .raw [0b00000001#8] = some .rawVersion
      ∧ reads .raw [0b00000010#8] = some .rawStart ∧ reads .raw [0b00000011#8] = some .rawStop
      ∧ reads .raw [0b00000100#8] = some .rawCsLow ∧ reads .raw [0b00000101#8] = some .rawCsHigh
      ∧ reads .raw [0b00000110#8] = some .rawReadByte ∧ reads .raw [0b00000111#8] = some .rawReadBit
      ∧ reads .raw [0b00001000#8] = some .rawPeek ∧ reads .raw [0b00001001#8] = some .rawTick
      ∧ reads .raw [0b00001010#8] = some .rawClkLow ∧ reads .raw [0b00001011#8] = some .rawClkHigh
      ∧ reads .raw [0b00001100#8] = some .rawDatLow ∧ reads .raw [0b00001101#8] = some .rawDatHigh := by decide

/-- R129. -/
theorem test_decode_raw_fields :
    reads .raw [0b00010001#8] = some (.rawWrite 1)
      ∧ reads .raw [0b01000110#8] = some (.rawPeriph false true true false)
      ∧ reads .raw [0b01100001#8] = some (.rawSpeed 1)
      ∧ reads .raw [0b10001000#8] = some (.rawConfig true false false false)
      ∧ reads .raw [0b10000100#8] = some (.rawConfig false true false false)
      ∧ reads .raw [0b10000010#8] = some (.rawConfig false false true false)
      ∧ reads .raw [0b10010000#8] = some (.rawUnknown 0x90#8) := by decide

/-- R130: the argument bytes in order, whatever their use. -/
theorem test_decode_ccproxy_low :
    reads .ccproxy [0xF0#8, 1#8, 2#8, 3#8] = some (.ccPing 1#8 2#8 3#8)
      ∧ reads .ccproxy [0x01#8, 1#8, 2#8, 3#8] = some (.ccEnter 1#8 2#8 3#8)
      ∧ reads .ccproxy [0x02#8, 1#8, 2#8, 3#8] = some (.ccExit 1#8 2#8 3#8)
      ∧ reads .ccproxy [0x03#8, 1#8, 2#8, 3#8] = some (.ccChipId 1#8 2#8 3#8)
      ∧ reads .ccproxy [0x04#8, 1#8, 2#8, 3#8] = some (.ccStatus 1#8 2#8 3#8)
      ∧ reads .ccproxy [0x05#8, 1#8, 2#8, 3#8] = some (.ccPc 1#8 2#8 3#8)
      ∧ reads .ccproxy [0x06#8, 1#8, 2#8, 3#8] = some (.ccStep 1#8 2#8 3#8)
      ∧ reads .ccproxy [0x07#8, 1#8, 2#8, 3#8] = some (.ccExec1 1#8 2#8 3#8)
      ∧ reads .ccproxy [0x08#8, 1#8, 2#8, 3#8] = some (.ccExec2 1#8 2#8 3#8)
      ∧ reads .ccproxy [0x09#8, 1#8, 2#8, 3#8] = some (.ccExec3 1#8 2#8 3#8) := by decide

/-- R130. -/
theorem test_decode_ccproxy_high :
    reads .ccproxy [0x0A#8, 1#8, 2#8, 3#8] = some (.ccBurstWrite 1#8 2#8 3#8)
      ∧ reads .ccproxy [0x0B#8, 1#8, 2#8, 3#8] = some (.ccRdCfg 1#8 2#8 3#8)
      ∧ reads .ccproxy [0x0C#8, 1#8, 2#8, 3#8] = some (.ccWrCfg 1#8 2#8 3#8)
      ∧ reads .ccproxy [0x0D#8, 1#8, 2#8, 3#8] = some (.ccChipErase 1#8 2#8 3#8)
      ∧ reads .ccproxy [0x0E#8, 1#8, 2#8, 3#8] = some (.ccResume 1#8 2#8 3#8)
      ∧ reads .ccproxy [0x0F#8, 1#8, 2#8, 3#8] = some (.ccHalt 1#8 2#8 3#8)
      ∧ reads .ccproxy [0xF1#8, 1#8, 2#8, 3#8] = some (.ccInstrVer 1#8 2#8 3#8)
      ∧ reads .ccproxy [0xF2#8, 1#8, 2#8, 3#8] = some (.ccInstrUpd 1#8 2#8 3#8)
      ∧ reads .ccproxy [0x55#8, 1#8, 2#8, 3#8] = some (.ccUnknown 0x55#8 1#8 2#8 3#8)
      ∧ reads .ccproxy [0xF1#8, 1#8, 2#8] = none ∧ reads .shell [0x01#8] = none := by decide

/-- A row's number is read in the first mode whose map fixes it, a frame as the proxy's (notes/assumptions/12.md). -/
theorem test_decodeTableWord :
    decodeTableWord 8 0x03 = some .i2cStop ∧ decodeTableWord 8 0x0A = some .rawClkLow
      ∧ decodeTableWord 32 0x000022E5 = some (.ccUnknown 0xE5#8 0x22#8 0#8 0#8)
      ∧ decodeTableWord 32 0x0000220C = some (.ccWrCfg 0x22#8 0#8 0#8) := by decide

/-! ### One step of each command: spec/95_test_vectors.md -/

/-- 2.9, R391: `[0D 41]` discards 41 and hands over to the shell. -/
theorem test_selShell :
    (reached (exec .selShell { bench .select [] with inbuf := [0x41#8] })).map (fun t => (t.mode, t.inbuf, t.trace))
      = some (.shell, [], [.toShell]) := by decide

/-- 2.9: `[F0 00 00 00]` is the first frame; the session is active already, so there are no events (R460). -/
theorem test_selCcproxy :
    (reached (exec .selCcproxy { bench .select [] with inbuf := [0#8, 0#8, 0#8] })).map
      (fun t => (t.mode, t.inbuf, t.acc, t.trace)) = some (.ccproxy, [], [0xF0#8, 0#8, 0#8, 0#8], []) := by decide

/-- 2.9: the twentieth zero announces `BBIO1`; the nineteenth says nothing. -/
theorem test_selZero :
    sent (exec .selZero { bench .select [] with zeroRun := 19 }) = some [[0x42#8, 0x42#8, 0x49#8, 0x4F#8, 0x31#8]]
      ∧ sent (exec .selZero { bench .select [] with zeroRun := 18 }) = some [] := by decide

/-- 2.9: `[00 × 19, 55, …]` loses the count. -/
theorem test_selOther :
    (reached (exec (.selOther 0x55#8) { bench .select [] with zeroRun := 19 })).map (fun t => (t.zeroRun, t.mode))
      = some (0, .select) := by decide

/-- T5, 2.10: `BBIO1`, and the mode stays. -/
theorem test_announcements :
    answer .bbReset = some [[0x42#8, 0x42#8, 0x49#8, 0x4F#8, 0x31#8]] ∧ modeAfter .bbReset = some .bbio
      ∧ answer .bbVersion = some [[0x42#8, 0x42#8, 0x49#8, 0x4F#8, 0x31#8]]
      ∧ answer .i2cVersion = some [[0x49#8, 0x32#8, 0x43#8, 0x31#8]]
      ∧ answer .owVersion = some [[0x31#8, 0x57#8, 0x30#8, 0x31#8]]
      ∧ answer .rawVersion = some [[0x52#8, 0x41#8, 0x57#8, 0x31#8]] := by decide

/-- 2.4: `i2c.init(CLK, MOSI)`, four events. -/
theorem test_bbI2c :
    does .bbI2c = some [.setOutput .clk true, .setOutput .mosi true, .set .clk true, .set .mosi true]
      ∧ modeAfter .bbI2c = some .i2c := by decide

/-- T4: the two events of `ow.init`. -/
theorem test_bbOw :
    does .bbOw = some [.setOutput .mosi true, .set .mosi true] ∧ modeAfter .bbOw = some .ow := by decide

/-- 2.6: the `raw.init` events. -/
theorem test_bbRaw :
    does .bbRaw = some [.setOutput .clk true, .set .clk false, .setOutput .cs true, .set .cs true,
      .setOutput .mosi true, .set .mosi false] ∧ modeAfter .bbRaw = some .raw := by decide

/-- 2.10: `0F 41 42`. -/
theorem test_bbShell :
    (reached (exec .bbShell { bench .bbio [] with inbuf := [0x41#8, 0x42#8] })).map
      (fun t => (t.mode, t.inbuf, t.trace)) = some (.shell, [], [.toShell, .send [0x01#8] .sent]) := by decide

/-- 2.10: `10 FF` and `11 00`. -/
theorem test_bbSelftest :
    answer .bbSelftest = some [[0x00#8]] ∧ answer .bbSelftestLong = some [[0x00#8]]
      ∧ stepAnswer { bench .bbio [] with pending := .selfTest, inbuf := [0xFF#8] } = some [[0x01#8]] := by decide

/-- 2.10: `5F`, `40`, `55`. -/
theorem test_bbPindir :
    answer (.bbPindir true true true true true) = some [[0x5F#8]]
      ∧ answer (.bbPindir false false false false false) = some [[0x40#8]]
      ∧ answer (.bbPindir true false true false true) = some [[0x55#8]] := by decide

/-- 2.10: `9F` with `MISO` low, and `E0`. -/
theorem test_bbPinset :
    answer (.bbPinset false false true true true true true) [1, 1, 1, 0, 1] = some [[0x9D#8]]
      ∧ answer (.bbPinset true true false false false false false) [0, 0, 0, 0, 0] = some [[0x80#8]] := by decide

/-- 2.10, 2.5, 2.3, 2.6: unknown opcodes. -/
theorem test_unknown :
    answer (.bbUnknown 0x03#8) = some [[0x00#8]] ∧ answer (.i2cUnknown 0x05#8) = some [[0x00#8]]
      ∧ answer (.owUnknown 0x61#8) = some [[0x00#8]] ∧ answer (.rawUnknown 0x0E#8) = some [[0x00#8]] := by decide

/-- T5: 0x00 in a sub-mode. -/
theorem test_exits :
    answer .i2cExit = some [[0x42#8, 0x42#8, 0x49#8, 0x4F#8, 0x31#8]] ∧ modeAfter .i2cExit = some .bbio
      ∧ modeAfter .owExit = some .bbio ∧ modeAfter .rawExit = some .bbio := by decide

/-- 2.6: leaving raw mode resets the fields. -/
theorem test_rawExit :
    (reached (exec .rawExit { bench .raw [] with
      raw := { bitOrder := .lsbFirst, driveMode := .pushPull, wireCount := .three, halfBitDelayUs := 5 } })).map (·.raw)
      = some { bitOrder := .msbFirst, driveMode := .openDrain, wireCount := .two, halfBitDelayUs := 100 } := by decide

/-- 2.4: `i2c.start()`, ten events, and `i2c.stop()`, eight. -/
theorem test_i2cConditions :
    does .i2cStart = some [.set .mosi true, .delay 5, .set .clk true, .delay 5, .guardBegin, .set .mosi false, .delay 5,
        .set .clk false, .guardEnd, .delay 5]
      ∧ does .i2cStop = some [.set .mosi false, .delay 5, .guardBegin, .set .clk true, .delay 5, .set .mosi true,
        .guardEnd, .delay 5] := by decide

/-- 2.4: draws 0,0,1,1,1,1,0,0 are 0x3C, with 48 events. -/
theorem test_i2cRead :
    answer .i2cRead [0, 0, 1, 1, 1, 1, 0, 0] = some [[0x3C#8]]
      ∧ (does .i2cRead [0, 0, 1, 1, 1, 1, 0, 0]).map (·.length) = some 48 := by decide

/-- T2: 0x1E tells the bit order. -/
theorem test_i2cRead_order : answer .i2cRead [0, 0, 0, 1, 1, 1, 1, 0] = some [[0x1E#8]] := by decide

/-- 2.4: `i2c.write_bit(0)`; the ACK is a low bit and the NACK a high one (R170, R171). -/
theorem test_i2cAck :
    does .i2cAck = some [.set .mosi false, .delay 5, .set .clk true, .delay 5, .set .clk false]
      ∧ does .i2cNack = some [.set .mosi true, .delay 5, .set .clk true, .delay 5, .set .clk false] := by decide

/-- 2.5: `60` answers 01, with no event. -/
theorem test_i2cSpeed : answer (.i2cSpeed 0) = some [[0x01#8]] ∧ does (.i2cSpeed 3) = some [] := by decide

/-- 2.5: `1F`: 01, and sixteen payload bytes to come; `12` in 1-Wire and `11` in raw mode. -/
theorem test_bulkStart :
    (reached (exec (.i2cWrite 15) (bench .i2c []))).map (·.pending) = some (.bulk .i2c 16)
      ∧ (reached (exec (.owWrite 2) (bench .ow []))).map (·.pending) = some (.bulk .ow 3)
      ∧ (reached (exec (.rawWrite 1) (bench .raw []))).map (·.pending) = some (.bulk .raw 2)
      ∧ answer (.i2cWrite 15) = some [[0x01#8]] := by decide

/-- 2.4: `i2c.write_byte(0xA0)`: the data levels, and the answer is the nack bit. -/
theorem test_i2cPayload :
    stepAnswer { bench .i2c [true] with pending := .bulk .i2c 1, inbuf := [0xA0#8] } = some [[0x01#8]]
      ∧ stepAnswer { bench .i2c [false] with pending := .bulk .i2c 1, inbuf := [0xA0#8] } = some [[0x00#8]] := by decide

/-- 2.4: 46 events. -/
theorem test_i2cPayload_events :
    (events (step { bench .i2c [true] with pending := .bulk .i2c 1, inbuf := [0xA0#8] })).map (·.length) = some 46 := by
  decide

/-- 2.3: `40`: AUX and CS low, push-pull; 2.5: `43`. -/
theorem test_periph :
    does (.owPeriph false false false false)
        = some [.setOutput .aux false, .set .aux false, .setOutput .cs false, .set .cs false]
      ∧ does (.i2cPeriph false false true true)
        = some [.setOutput .aux false, .set .aux true, .setOutput .cs false, .set .cs true]
      ∧ does (.rawPeriph false false false true)
        = some [.setOutput .aux false, .set .aux false, .setOutput .cs false, .set .cs true] := by decide

/-- 2.3: an empty bus reads FF, and a reset answers 01. -/
theorem test_ow :
    answer .owRead [1, 1, 1, 1, 1, 1, 1, 1] = some [[0xFF#8]] ∧ answer .owReset [1] = some [[0x01#8]]
      ∧ answer .owRead [1, 0, 0, 0, 0, 0, 0, 0] = some [[0x01#8]] := by decide

/-- 2.3: `12 CC 44 00` echoes. -/
theorem test_owPayload :
    stepAnswer { bench .ow [] with pending := .bulk .ow 3, inbuf := [0xCC#8, 0x44#8, 0#8] } = some [[0xCC#8]] := by decide

/-- T7: an empty bus. -/
theorem test_owSearch :
    answer .owSearchRom [1] = some [List.replicate 8 0xFF#8]
      ∧ answer .owSearchAlarm [1] = some [List.replicate 8 0xFF#8] := by decide

/-- T1 and 2.1: CRC-8. -/
theorem test_crc8 :
    crc8 [0x28#8, 0xFF#8, 0x64#8, 0x1E#8, 0x04#8, 0x16#8, 0x03#8, 0x8D#8] = 0xF4#8
      ∧ crc8 [0x28#8, 0xFF#8, 0x64#8, 0x1E#8, 0x04#8, 0x16#8, 0x03#8] = 0x51#8
      ∧ crc8 [0x02#8, 0x1C#8, 0xB8#8, 0x01#8, 0#8, 0#8, 0#8, 0xA2#8] = 0x00#8
      ∧ crc8 [0x01#8] = 0x5E#8 ∧ crc8 [0x80#8] = 0x8C#8 ∧ crc8 [] = 0x00#8 := by decide +kernel

/-- 2.6: `06` is C1 most significant bit first. -/
theorem test_rawReadByte : answer .rawReadByte [1, 1, 0, 0, 0, 0, 0, 1] = some [[0xC1#8]] := by decide

/-- 2.6: `82` then `06` is 83. -/
theorem test_rawReadByte_lsb :
    sent (exec .rawReadByte
      { bench .raw (lv [1, 1, 0, 0, 0, 0, 0, 1]) with raw := { rawDefaults with bitOrder := .lsbFirst } })
      = some [[0x83#8]] := by decide

/-- 2.6: `07`, `08`. -/
theorem test_rawReadBit :
    answer .rawReadBit [1] = some [[0x01#8]] ∧ answer .rawPeek [0] = some [[0x00#8]]
      ∧ does .rawPeek [0] = some [.get .mosi false]
      ∧ (does .rawReadBit [1]).map (·.length) = some 6 := by decide

/-- 2.6: `raw.start()` in 2-wire mode, tier 0, ten events. -/
theorem test_rawStart :
    does .rawStart = some [.setOutput .mosi true, .set .mosi true, .delay 100, .set .clk true, .delay 100,
      .setOutput .mosi true, .set .mosi false, .delay 100, .set .clk false, .delay 100] := by decide

/-- 2.6: `raw.stop()` in 3-wire mode, tier 0, six events. -/
theorem test_rawStop :
    events (exec .rawStop { bench .raw [] with raw := { rawDefaults with wireCount := .three } })
      = some [.set .mosi false, .delay 100, .set .clk true, .delay 100, .set .mosi true, .delay 100] := by decide

/-- 2.6: `raw.tick()`; R266, R273: the line commands. -/
theorem test_rawLines :
    does .rawTick = some [.set .clk true, .delay 100, .set .clk false, .delay 100]
      ∧ does .rawCsLow = some [.set .cs false] ∧ does .rawCsHigh = some [.set .cs true]
      ∧ does .rawClkLow = some [.set .clk false] ∧ does .rawClkHigh = some [.set .clk true]
      ∧ does .rawDatLow = some [.setOutput .mosi true, .set .mosi false]
      ∧ does .rawDatHigh = some [.setOutput .mosi true, .set .mosi true] := by decide

/-- 2.6: `raw.write_byte(0xA5)` answers 0x5A in 3-wire mode and 0x01 in 2-wire mode. -/
theorem test_rawPayload :
    stepAnswer { bench .raw (lv [0, 1, 0, 1, 1, 0, 1, 0]) with
        pending := .bulk .raw 1, inbuf := [0xA5#8], raw := { rawDefaults with wireCount := .three } } = some [[0x5A#8]]
      ∧ stepAnswer { bench .raw [] with pending := .bulk .raw 1, inbuf := [0xA5#8] } = some [[0x01#8]] := by decide

/-- 2.6: `62` is tier 2, 5 microseconds. -/
theorem test_rawSpeed :
    (reached (exec (.rawSpeed 2) (bench .raw []))).map (·.raw.halfBitDelayUs) = some 5
      ∧ does (.rawSpeed 3) = some [] := by decide

/-- 2.6: `8C`. -/
theorem test_rawConfig :
    does (.rawConfig true true false false) = some [.setOutput .clk false, .set .clk false, .setOutput .cs false,
      .set .cs true, .setOutput .mosi false, .set .mosi false, .setInput .miso] := by decide

/-- 2.8: ping, `0A`, `55` and `F1`. -/
theorem test_cc_plain :
    answer (.ccPing 0#8 0#8 0#8) = some [[0x01#8, 0#8, 0#8]]
      ∧ answer (.ccBurstWrite 0#8 0x10#8 0#8) = some [[0x02#8, 0xFF#8, 0#8]]
      ∧ answer (.ccUnknown 0x55#8 0#8 0#8 0#8) = some [[0x02#8, 0xFF#8, 0#8]]
      ∧ answer (.ccInstrVer 0#8 0#8 0#8) = some [[0x01#8, 0x01#8, 0#8]] := by decide

/-- 2.8, 2.7: `01` and its 24 events. -/
theorem test_ccEnter :
    answer (.ccEnter 0#8 0#8 0#8) = some [[0x01#8, 0#8, 0#8]]
      ∧ (does (.ccEnter 0#8 0#8 0#8)).map (·.length) = some 24 := by decide

/-- 2.8: `02` before enter is NOT_DEBUGGING; after it, `01 00 00`. -/
theorem test_ccExit :
    answer (.ccExit 0#8 0#8 0#8) = some [[0x02#8, 0x02#8, 0#8]]
      ∧ debugAnswer (.ccExit 0#8 0#8 0#8) [0, 0, 0, 0, 0, 0, 0, 0, 0] = some [[0x01#8, 0x00#8, 0#8]] := by decide

/-- 2.8: `03`, replies A5, 21. -/
theorem test_ccChipId :
    debugAnswer (.ccChipId 0#8 0#8 0#8) [0, 1, 0, 1, 0, 0, 1, 0, 1, 0, 0, 1, 0, 0, 0, 0, 1]
      = some [[0x01#8, 0x21#8, 0xA5#8]] := by decide

/-- 2.8: `05`, replies 01 23. -/
theorem test_ccPc :
    debugAnswer (.ccPc 0#8 0#8 0#8) [0, 0, 0, 0, 0, 0, 0, 0, 1, 0, 0, 1, 0, 0, 0, 1, 1]
      = some [[0x01#8, 0x23#8, 0x01#8]] := by decide

/-- 2.8: `04` before enter; 2.7: after one wait round, 213 events. -/
theorem test_ccStatus :
    answer (.ccStatus 0#8 0#8 0#8) = some [[0x02#8, 0x02#8, 0#8]]
      ∧ debugAnswer (.ccStatus 0#8 0#8 0#8) [1, 0, 0, 0, 1, 1, 0, 1, 0, 0] = some [[0x01#8, 0x34#8, 0#8]]
      ∧ (events (exec (.ccStatus 0#8 0#8 0#8) (inDebug (lv [1, 0, 0, 0, 1, 1, 0, 1, 0, 0])))).map (·.length)
        = some 213 := by decide +kernel

/-- 2.8: `06` and `07`. -/
theorem test_ccStep :
    debugAnswer (.ccStep 0#8 0#8 0#8) [0, 0, 1, 1, 1, 1, 1, 1, 1] = some [[0x01#8, 0x7F#8, 0#8]]
      ∧ debugAnswer (.ccExec1 0#8 0x11#8 0x22#8) [0, 0, 0, 0, 0, 0, 0, 0, 1] = some [[0x01#8, 0x01#8, 0#8]] := by decide

/-- 2.7: `dw.exec3(0x90, 0x12, 0x34)`, 363 events; R336: two arguments are 72 fewer. -/
theorem test_ccExec :
    (events (exec (.ccExec3 0x90#8 0x12#8 0x34#8) (inDebug (lv [0, 0, 0, 0, 1, 0, 0, 1, 0])))).map (·.length) = some 363
      ∧ (events (exec (.ccExec2 0x90#8 0x12#8 0x34#8) (inDebug (lv [0, 0, 0, 0, 1, 0, 0, 1, 0])))).map (·.length)
        = some 291 := by decide +kernel

/-- 2.8: `0B`, `0C 22 00 00`, `0D`, `0E`, `0F`. -/
theorem test_cc_bytes :
    debugAnswer (.ccRdCfg 0#8 0#8 0#8) [0, 0, 0, 1, 0, 0, 0, 1, 0] = some [[0x01#8, 0x22#8, 0#8]]
      ∧ debugAnswer (.ccWrCfg 0x22#8 0#8 0#8) [0, 0, 0, 1, 0, 0, 0, 1, 0] = some [[0x01#8, 0x22#8, 0#8]]
      ∧ debugAnswer (.ccChipErase 0#8 0#8 0#8) [0, 1, 0, 0, 0, 0, 0, 0, 0] = some [[0x01#8, 0x80#8, 0#8]]
      ∧ debugAnswer (.ccResume 0#8 0#8 0#8) [0, 0, 0, 0, 0, 0, 0, 0, 0] = some [[0x01#8, 0x00#8, 0#8]]
      ∧ debugAnswer (.ccHalt 0#8 0#8 0#8) [0, 0, 0, 0, 0, 0, 0, 0, 0] = some [[0x01#8, 0x00#8, 0#8]] := by decide

/-- 2.7: the slot's opcode goes out first, bit by bit: `Table[10]` is 0x34. -/
theorem test_dw_wire :
    ((events (exec (.ccStatus 0#8 0#8 0#8) (inDebug (lv [0, 0, 0, 0, 0, 0, 0, 0, 0])))).map fun es =>
      es.filterMap fun e => match e with
        | .set (.gpio 2) l => some l
        | _ => none) = some (lv [0, 0, 1, 1, 0, 1, 0, 0]) := by decide

/-- 2.8: the upload's READY reply, and its last byte. -/
theorem test_ccInstrUpd :
    answer (.ccInstrUpd 0#8 0#8 0#8) = some [[0x03#8, 0#8, 0#8]]
      ∧ stepAnswer { bench .ccproxy [] with pending := .upload 15, acc := [0x2F#8] } = some [[0x01#8, 0x01#8, 0#8]] := by
  decide

/-- 2.7: `update_instruction_table([AA], 15, 1)` is accepted; R342: of a longer sequence the first `length` bytes are
written. -/
theorem test_patch :
    (dwUpdateTable [0xAA#8] 15 1 (bench .ccproxy [])).2.dw.table[15] = 0xAA#8
      ∧ (dwUpdateTable [0xAA#8, 0xBB#8, 0xCC#8] 14 2 (bench .ccproxy [])).2.dw.table
        = (table.set 14 0xAA#8).set 15 0xBB#8 := by decide

/-- R326, R468: 255 high samples latch NOT_WIRED and leave debug mode. -/
theorem test_unwired :
    sent (exec (.ccPc 0#8 0#8 0#8) (inDebug (List.replicate 255 true))) = some [[0x02#8, 0x03#8, 0#8]]
      ∧ (reached (exec (.ccPc 0#8 0#8 0#8) (inDebug (List.replicate 255 true)))).map (·.dw)
        = some (session true false .notWired) := by decide +kernel

/-- T6: a debug operation before `dw.init` latches NOT_ACTIVE, without a pin event. -/
theorem test_t6 :
    sent (exec (.ccHalt 0#8 0#8 0#8) { bench .ccproxy [] with dw := session false false .none })
        = some [[0x02#8, 0x01#8, 0#8]]
      ∧ events (exec (.ccHalt 0#8 0#8 0#8) { bench .ccproxy [] with dw := session false false .none }) = some [] := by
  decide

/-- 2.5: a failed `Send` ends in `SELECT` (R525). -/
theorem test_failedSend :
    (reached (exec .i2cVersion (answering .error (bench .i2c [])))).map (fun t => (t.mode, t.firstChunk))
      = some (.select, true) := by decide

/-! ### Witnesses: for every statement with hypotheses, states and operands that meet them -/

/-- The two cases of `Answers`: a `Send` that goes through at `s`, and an error or a short count at `s`. -/
abbrev BothSends (s : State) : Prop :=
  s.env.sendResult = .sent ∧ (answering .sent s).env.sendResult = .sent ∧ (answering .short s).env.sendResult ≠ .sent
    ∧ (answering .error s).env.sendResult ≠ .sent

theorem witness_DecodeOfEncodeIsTheInstruction :
    (Instr.selOther 0xFF#8).wellFormed = true ∧ (Instr.rawUnknown 0x90#8).wellFormed = true
      ∧ (Instr.ccUnknown 0x00#8 0#8 0#8 0xFF#8).wellFormed = true := by decide

theorem witness_EncodeOfDecodeIsTheBytes :
    decode ⟨.bbio, false⟩ [0xFF#8, 0x01#8] = .ok (.bbPinset true true true true true true true, [0x01#8])
      ∧ decode ⟨.select, true⟩ [0xF0#8] = .ok (.selCcproxy, []) := ⟨rfl, rfl⟩

theorem witness_EveryByteDecodesInItsMode :
    (⟨.select, true⟩ : Context).mode ≠ .ccproxy ∧ (⟨.select, true⟩ : Context).mode ≠ .shell
      ∧ (⟨.raw, false⟩ : Context).mode ≠ .ccproxy ∧ (⟨.raw, false⟩ : Context).mode ≠ .shell := by decide

/-- The three clauses: a bit-bang command and a selector byte, a frame, and the first byte of a chunk. -/
theorem witness_StepRunsTheDecodedInstruction :
    let a : State := { bench .i2c [] with inbuf := [0x1F#8, 0x00#8] }
    let b : State := { bench .ccproxy [] with acc := [0xF0#8, 0#8, 0#8, 0#8] }
    let c : State := receiving [.chunk 0xF0#8 []] (bench .select [])
    (a.listing = false ∧ a.pending = .none ∧ a.mode.bitBang = true
      ∧ decode ⟨a.mode, false⟩ a.inbuf = .ok (.i2cWrite 15, [0x00#8]))
    ∧ (b.listing = false ∧ b.pending = .none ∧ b.mode = .ccproxy
      ∧ decode ⟨.ccproxy, false⟩ b.acc = .ok (.ccPing 0#8 0#8 0#8, []))
    ∧ (c.listing = false ∧ c.pending = .none ∧ c.mode = .select ∧ c.inbuf = []
      ∧ c.env.rx = [.chunk 0xF0#8 []] ∧ decode ⟨.select, c.firstChunk⟩ [0xF0#8] = .ok (.selCcproxy, [])) :=
  ⟨⟨rfl, rfl, rfl, rfl⟩, ⟨rfl, rfl, rfl, rfl⟩, ⟨rfl, rfl, rfl, rfl, rfl, rfl⟩⟩

/-- Waiting for an opcode, for a payload byte, for the fourth byte of a frame, and in the selector. -/
theorem witness_WaitingStepReceives :
    (bench .bbio []).waits = true ∧ ({ bench .raw [] with pending := .bulk .raw 1 } : State).waits = true
      ∧ ({ bench .ccproxy [] with acc := [0#8, 0#8, 0#8] } : State).waits = true
      ∧ ({ bench .ccproxy [] with pending := .upload 15 } : State).waits = true
      ∧ (bench .bbio []).env.rx = []
      ∧ (receiving [.timeout] (bench .bbio [])).waits = true
      ∧ (receiving [.timeout] (bench .bbio [])).env.rx = [.timeout]
      ∧ (receiving [.disconnect] (bench .ccproxy [])).waits = true
      ∧ (receiving [.disconnect] (bench .ccproxy [])).env.rx = [.disconnect]
      ∧ (receiving [.chunk 1#8 []] (bench .ccproxy [])).waits = true
      ∧ (receiving [.chunk 1#8 []] (bench .ccproxy [])).env.rx = [.chunk 1#8 []]
      ∧ (bench .select []).mode = .select ∧ (bench .select []).pending = .none
      ∧ (bench .select []).listing = false ∧ (bench .select []).inbuf = [] := by decide

/-- Every clause: a state that waits beside one that does not, two that have a byte each, and two in the middle of a search
listing, one of them with nothing at hand. -/
theorem witness_ChunkBoundariesDoNotMatter :
    let s : State := receiving [.chunk 0x01#8 [0x02#8]] (bench .bbio [])
    let u : State := { bench .bbio [] with inbuf := [0x01#8, 0x02#8] }
    let v : State := receiving [.chunk 0x02#8 []] { bench .bbio [] with inbuf := [0x01#8] }
    let l : State := { bench .ow [true] with listing := true }
    let m : State := receiving [.chunk 0x01#8 []] l
    let n : State := { l with inbuf := [0x01#8] }
    (SameButChunks s u ∧ s.mode.bitBang = true ∧ s.waits = true ∧ ∃ t, step s = .next t)
      ∧ (SameButChunks u v ∧ u.mode.bitBang = true ∧ u.inbuf ≠ [] ∧ v.inbuf ≠ [] ∧ ∃ t, step u = .next t)
      ∧ (SameButChunks m n ∧ m.mode.bitBang = true ∧ m.listing = true ∧ m.inbuf = [] ∧ ∃ t, step m = .next t) :=
  ⟨⟨⟨rfl, by decide, by decide, rfl, rfl⟩, rfl, rfl, _, rfl⟩,
    ⟨⟨rfl, by decide, by decide, rfl, rfl⟩, rfl, by decide, by decide, _, rfl⟩,
    ⟨⟨rfl, by decide, by decide, rfl, rfl⟩, rfl, rfl, rfl, _, rfl⟩⟩

theorem witness_FailedSendReturnsToSelect :
    (Instr.ccPing 0#8 0#8 0#8).context.mode ≠ .select
      ∧ (answering .short (bench .ccproxy [])).mode = (Instr.ccPing 0#8 0#8 0#8).context.mode
      ∧ (answering .short (bench .ccproxy [])).env.sendResult ≠ .sent
      ∧ Instr.bbRaw.context.mode ≠ .select ∧ (answering .error (bench .bbio [])).mode = Instr.bbRaw.context.mode
      ∧ (answering .error (bench .bbio [])).env.sendResult ≠ .sent := by decide

theorem witness_EveryCommandAnswersOnce :
    Instr.bbShell.context.mode ≠ .select ∧ (bench .bbio []).env.sendResult = .sent := by decide

/-- The count at both sides of the boundary. -/
theorem witness_SelectorCountsZeros :
    ({ bench .select [] with zeroRun := 18 } : State).zeroRun + 1 < 20
      ∧ 20 ≤ ({ bench .select [] with zeroRun := 19 } : State).zeroRun + 1
      ∧ BothSends { bench .select [] with zeroRun := 19 } := by decide

theorem witness_TwentyZerosEnterBbio :
    let s : State := { bench .select [] with inbuf := List.replicate (20 - 0) 0x00#8 ++ [0x02#8] }
    let u : State := { bench .select [] with zeroRun := 19, inbuf := List.replicate (20 - 19) 0x00#8 ++ [] }
    (s.mode = .select ∧ s.pending = .none ∧ s.listing = false ∧ 0 < 20 ∧ s.zeroRun = 0 ∧ s.env.sendResult = .sent)
      ∧ (u.mode = .select ∧ u.pending = .none ∧ u.listing = false ∧ 19 < 20 ∧ u.zeroRun = 19
        ∧ u.env.sendResult = .sent) := by decide

theorem witness_LeadingBytesSelectProxyOrShell :
    (bench .select []).dw.active = true
      ∧ ({ bench .select [] with dw := session false false .none } : State).dw.active = false := by decide

theorem witness_VersionCommandsAnnounce : BothSends (bench .bbio []) := by decide

theorem witness_BbioModeChanges : BothSends (bench .bbio []) := by decide

theorem witness_SelfTestExchange :
    let s : State := { bench .bbio [] with pending := .selfTest, inbuf := [0x00#8] }
    BothSends s ∧ s.mode = .bbio ∧ s.pending = .selfTest ∧ s.listing = false ∧ s.inbuf = [0x00#8] := by decide

theorem witness_PinDirectionsAreSetAndReadBack : BothSends (bench .bbio []) := by decide

theorem witness_PinLevelsAreSetAndSampled : BothSends (bench .bbio (lv [1, 1, 1, 0, 1])) := by decide

theorem witness_UnknownOpcodesAnswerZero : BothSends (bench .i2c []) := by decide

theorem witness_SubModeExitReturnsToBbio : BothSends (bench .raw []) ∧ BothSends (bench .ow []) := by decide

theorem witness_PeripheralCommandsDriveAuxAndCs : BothSends (bench .i2c []) := by decide

theorem witness_BulkWritesAcknowledgeFirst : BothSends (bench .i2c []) := by decide

/-- One payload byte, and sixteen with one byte after them. -/
theorem witness_BulkWriteConsumesItsWholePayload :
    let one : State := { bench .ow [] with pending := .bulk .ow [0x00#8].length, inbuf := [0x00#8] ++ [] }
    let all : State :=
      { bench .i2c [] with
        pending := .bulk .i2c (List.replicate 16 0x00#8).length, inbuf := List.replicate 16 0x00#8 ++ [0x03#8] }
    (one.mode = BulkMode.ow.mode ∧ one.listing = false ∧ one.pending = .bulk .ow [0x00#8].length
      ∧ 1 ≤ [0x00#8].length ∧ [0x00#8].length ≤ 16 ∧ ∀ r ∈ one.env.tx.take [0x00#8].length, r = .sent)
    ∧ (all.mode = BulkMode.i2c.mode ∧ all.listing = false
      ∧ all.pending = .bulk .i2c (List.replicate 16 0x00#8).length ∧ 1 ≤ (List.replicate 16 0x00#8).length
      ∧ (List.replicate 16 0x00#8).length ≤ 16
      ∧ ∀ r ∈ all.env.tx.take (List.replicate 16 0x00#8).length, r = .sent) := by decide

theorem witness_I2cConditionsAndAcknowledgeBits : BothSends (bench .i2c []) := by decide

theorem witness_I2cReadShiftsMsbFirst : BothSends (bench .i2c (lv [0, 0, 1, 1, 1, 1, 0, 0])) := by decide

/-- The last payload byte and the first of sixteen. -/
theorem witness_I2cPayloadByteIsWrittenAndAnswered :
    let s (k : Nat) : State := { bench .i2c [true] with pending := .bulk .i2c (k + 1), inbuf := [0xA0#8] }
    BothSends (s 0) ∧ (s 0).mode = .i2c ∧ (s 0).listing = false ∧ (s 0).pending = .bulk .i2c 1 ∧ (s 0).inbuf = [0xA0#8]
      ∧ BothSends (s 15) ∧ (s 15).mode = .i2c ∧ (s 15).listing = false ∧ (s 15).pending = .bulk .i2c 16
      ∧ (s 15).inbuf = [0xA0#8] ∧ 15 < 16 := by decide

theorem witness_OwResetCommand : BothSends (bench .ow [true]) ∧ BothSends (bench .ow [false]) := by decide

theorem witness_OwReadShiftsLsbFirst : BothSends (bench .ow (lv [1, 0, 0, 0, 0, 0, 0, 0])) := by decide

theorem witness_OwPayloadByteIsEchoed :
    let s (k : Nat) : State := { bench .ow [] with pending := .bulk .ow (k + 1), inbuf := [0x44#8, 0x00#8] }
    BothSends (s 0) ∧ (s 0).mode = .ow ∧ (s 0).listing = false ∧ (s 0).pending = .bulk .ow 1
      ∧ (s 0).inbuf = [0x44#8, 0x00#8]
      ∧ BothSends (s 15) ∧ (s 15).mode = .ow ∧ (s 15).listing = false ∧ (s 15).pending = .bulk .ow 16
      ∧ (s 15).inbuf = [0x44#8, 0x00#8] ∧ 15 < 16 := by decide

theorem witness_SearchOnEmptyBusSendsTheSentinel :
    (bench .ow [true]).level 0 = true ∧ BothSends (bench .ow [true]) := by decide

/-- The three devices of spec/95_test_vectors.md 2.2, in the order of the search. -/
def deviceX : BitVec 64 := 0xFB00000000000010#64

/-- The second device. -/
def deviceY : BitVec 64 := 0x1E00000000000028#64

/-- The third device. -/
def deviceZ : BitVec 64 := 0x7A00000000000002#64

/-- What a bus with the devices `ids` answers in a pass that follows `path`, as a draw script. -/
def busLevels (ids : List (BitVec 64)) (path : BitVec 64) : List Bool :=
  false :: (List.range 64).flatMap fun k =>
    [(listening ids path k).all (fun x => x.getLsbD k), (listening ids path k).all (fun x => !x.getLsbD k)]

/-- A 1-Wire bench on that bus, with the search fields given. -/
def onBus (path rom : BitVec 64) (discrepancy : Nat) : State :=
  { bench .ow (busLevels [deviceX, deviceY, deviceZ] path) with
    ow := { pin := .mosi, lastDeviceFlag := false, lastDiscrepancy := discrepancy, searchCommand := .romSearch, rom := rom } }

theorem searched_devices : [deviceX, deviceY, deviceZ].Pairwise SearchedBefore := by
  unfold SearchedBefore
  decide +kernel

theorem bus_answers (path rom : BitVec 64) (d : Nat)
    (h : ((List.range 64).all fun k =>
      (onBus path rom d).level (1 + 2 * k)
          == (listening [deviceX, deviceY, deviceZ] path k).all (fun x => x.getLsbD k)
        && (onBus path rom d).level (2 + 2 * k)
          == (listening [deviceX, deviceY, deviceZ] path k).all (fun x => !x.getLsbD k)) = true) :
    BusFollows [deviceX, deviceY, deviceZ] path (onBus path rom d) := by
  refine ⟨rfl, fun k hk => ?_⟩
  have hk' := List.all_eq_true.mp h k (List.mem_range.mpr hk)
  simpa using hk'

theorem witness_SearchCommandSendsTheFirstDevice :
    [deviceX, deviceY, deviceZ].Pairwise SearchedBefore
      ∧ BusFollows [deviceX, deviceY, deviceZ] deviceX (onBus deviceX 0#64 64)
      ∧ BothSends (onBus deviceX 0#64 64) :=
  ⟨searched_devices, bus_answers _ _ _ (by decide +kernel), by decide⟩

/-- The three clauses: an exhausted search, a pass that finds a device, and one that finds none; each of the last two with
a `Send` that goes through and one that fails. -/
theorem witness_SearchListingTurn :
    let a : State := { bench .ow [] with
      listing := true
      ow := { pin := .mosi, lastDeviceFlag := true, lastDiscrepancy := 64, searchCommand := .romSearch, rom := 0#64 } }
    let b : State := { onBus deviceZ deviceY 1 with listing := true }
    let c : State := { bench .ow [true] with listing := true }
    (a.mode = .ow ∧ a.pending = .none ∧ a.listing = true ∧ a.ow.lastDeviceFlag = true)
      ∧ (b.mode = .ow ∧ b.pending = .none ∧ b.listing = true ∧ (owFindNext b).1 = true ∧ BothSends b
        ∧ (owFindNext (answering .error b)).1 = true)
      ∧ (c.mode = .ow ∧ c.pending = .none ∧ c.listing = true ∧ (owFindNext c).1 = false ∧ BothSends c
        ∧ (owFindNext (answering .error c)).1 = false) := by
  decide +kernel

/-- From the first device to the second, and from the second to the last. -/
theorem witness_SearchWalksTheDevicesInOrder :
    ([] ++ deviceX :: deviceY :: [deviceZ]).Pairwise SearchedBefore
      ∧ firstDifference deviceX deviceY = 3 ∧ (onBus deviceY deviceX 3).ow.rom = deviceX
      ∧ (onBus deviceY deviceX 3).ow.lastDiscrepancy = 3 ∧ (onBus deviceY deviceX 3).ow.lastDeviceFlag = false
      ∧ BusFollows ([] ++ deviceX :: deviceY :: [deviceZ]) deviceY (onBus deviceY deviceX 3)
      ∧ ([deviceX] ++ deviceY :: deviceZ :: []).Pairwise SearchedBefore
      ∧ firstDifference deviceY deviceZ = 1 ∧ (onBus deviceZ deviceY 1).ow.rom = deviceY
      ∧ (onBus deviceZ deviceY 1).ow.lastDiscrepancy = 1 ∧ (onBus deviceZ deviceY 1).ow.lastDeviceFlag = false
      ∧ BusFollows ([deviceX] ++ deviceY :: deviceZ :: []) deviceZ (onBus deviceZ deviceY 1) :=
  ⟨searched_devices, by decide +kernel, rfl, rfl, rfl, bus_answers _ _ _ (by decide +kernel),
    searched_devices, by decide +kernel, rfl, rfl, rfl, bus_answers _ _ _ (by decide +kernel)⟩

/-- Spec/95_test_vectors.md 2.2: the order X, Y, Z, and then nothing. -/
theorem test_findNext_order :
    (owFindFirst .romSearch (onBus deviceX 0#64 64)).2.ow.rom = deviceX
      ∧ (owFindFirst .romSearch (onBus deviceX 0#64 64)).2.ow.lastDiscrepancy = 3
      ∧ (owFindNext (onBus deviceY deviceX 3)).2.ow.lastDiscrepancy = 1
      ∧ (owFindNext (onBus deviceZ deviceY 1)).2.ow.rom = deviceZ
      ∧ (owFindNext (onBus deviceZ deviceY 1)).2.ow.lastDeviceFlag = true := by decide +kernel

/-- At the first position and at the last. -/
theorem witness_AbortedSearchPassKeepsTheSearchState :
    let a : State := bench .ow [false, true, true]
    let b : State := bench .ow (false :: (List.replicate 63 [false, true]).flatten ++ [true, true])
    (a.ow.lastDeviceFlag = false ∧ a.level 0 = false ∧ 0 < 64 ∧ a.level (1 + 2 * 0) = true ∧ a.level (2 + 2 * 0) = true)
      ∧ (b.ow.lastDeviceFlag = false ∧ b.level 0 = false ∧ 63 < 64
        ∧ (∀ j < 63, ¬(b.level (1 + 2 * j) = true ∧ b.level (2 + 2 * j) = true))
        ∧ b.level (1 + 2 * 63) = true ∧ b.level (2 + 2 * 63) = true) := by decide +kernel

theorem witness_RawConditionsAndLines : BothSends (bench .raw []) := by decide

theorem witness_RawReadsInConfiguredOrder : BothSends (bench .raw (lv [1, 1, 0, 0, 0, 0, 0, 1])) := by decide

/-- Both wire counts, at the last payload byte and at the first of sixteen. -/
theorem witness_RawPayloadByteIsExchanged :
    let s (k : Nat) (w : WireCount) : State :=
      { bench .raw (lv [0, 1, 0, 1, 1, 0, 1, 0]) with
        pending := .bulk .raw (k + 1), inbuf := [0xA5#8], raw := { rawDefaults with wireCount := w } }
    BothSends (s 0 .two) ∧ (s 0 .two).mode = .raw ∧ (s 0 .two).listing = false ∧ (s 0 .two).pending = .bulk .raw 1
      ∧ (s 0 .two).inbuf = [0xA5#8] ∧ (s 0 .two).raw.wireCount = .two
      ∧ BothSends (s 15 .three) ∧ (s 15 .three).mode = .raw ∧ (s 15 .three).listing = false
      ∧ (s 15 .three).pending = .bulk .raw 16 ∧ (s 15 .three).inbuf = [0xA5#8]
      ∧ (s 15 .three).raw.wireCount = .three := by decide

theorem witness_RawSpeedAndConfig : BothSends (bench .raw []) := by decide

theorem witness_ProxyCommandsWithoutTheEngine : BothSends (bench .ccproxy []) := by decide

theorem witness_ProxyEnterStartsDebugMode :
    BothSends (bench .ccproxy []) ∧ (bench .ccproxy []).dw.active = true
      ∧ BothSends { bench .ccproxy [] with dw := session false false .none }
      ∧ ({ bench .ccproxy [] with dw := session false false .none } : State).dw.active = false := by decide

theorem witness_DebugCommandsFailTheirCheck :
    (byteCommand (.ccHalt 0#8 0#8 0#8)).isSome = true ∧ (wordCommand (.ccPc 0#8 0#8 0#8)).isSome = true
      ∧ BothSends { bench .ccproxy [] with dw := session false false .none }
      ∧ ({ bench .ccproxy [] with dw := session false false .none } : State).dw.active = false
      ∧ BothSends (bench .ccproxy []) ∧ (bench .ccproxy []).dw.active = true
      ∧ (bench .ccproxy []).dw.inDebug = false
      ∧ (inDebug []).dw.active = true ∧ (inDebug []).dw.inDebug = true := by decide

/-- A bench in debug mode whose target is ready after `k` high samples. -/
def readyIn (k : Nat) : State := inDebug (List.replicate k true ++ [false])

/-- A bench in debug mode whose target never becomes ready. -/
def unwired : State := inDebug (List.replicate 255 true)

/-- Ready at once, ready in the last round, and never ready. -/
theorem readiness : (readyIn 0).readyAfter 0 ∧ (readyIn 254).readyAfter 254 ∧ unwired.neverReady := by
  refine ⟨⟨by decide, by decide, rfl⟩, ⟨by decide, by decide +kernel, rfl⟩, ?_⟩
  unfold State.neverReady
  decide +kernel

/-- The debug commands' other hypotheses, at each of these states. -/
theorem in_debug_mode :
    ∀ s ∈ [readyIn 0, readyIn 254, unwired], s.dw.active = true ∧ s.dw.inDebug = true ∧ BothSends s := by decide +kernel

theorem witness_DebugCommandsAnswerTheTargetsByte :
    byteCommand (.ccExec3 0x90#8 0x12#8 0x34#8) = some (7, [0x90#8, 0x12#8, 0x34#8])
      ∧ (∀ s ∈ [readyIn 0, readyIn 254, unwired], s.dw.active = true ∧ s.dw.inDebug = true ∧ BothSends s)
      ∧ (readyIn 0).readyAfter 0 ∧ (readyIn 254).readyAfter 254 ∧ unwired.neverReady :=
  ⟨rfl, in_debug_mode, readiness⟩

theorem witness_DebugCommandsAnswerTheTargetsWord :
    wordCommand (.ccChipId 0#8 0#8 0#8) = some 8
      ∧ (∀ s ∈ [readyIn 0, readyIn 254, unwired], s.dw.active = true ∧ s.dw.inDebug = true ∧ BothSends s)
      ∧ (readyIn 0).readyAfter 0 ∧ (readyIn 254).readyAfter 254 ∧ unwired.neverReady :=
  ⟨rfl, in_debug_mode, readiness⟩

theorem witness_ProxyExitResumesAndLeavesDebugMode :
    (∀ s ∈ [readyIn 0, readyIn 254, unwired], s.dw.active = true ∧ s.dw.inDebug = true ∧ BothSends s)
      ∧ (readyIn 0).readyAfter 0 ∧ (readyIn 254).readyAfter 254 ∧ unwired.neverReady :=
  ⟨in_debug_mode, readiness⟩

theorem witness_ReadyWaitIsBoundedBy255Rounds :
    (readyIn 0).readyAfter 0 ∧ (readyIn 254).readyAfter 254 ∧ unwired.neverReady := readiness

/-- Spec/95_test_vectors.md 2.7: `(…, 15, 1)` fits, `([..16 bytes..], 1, 16)` does not; with a sequence as long as the
length and with a longer one. -/
theorem witness_TablePatchIsBoundsChecked :
    (1 ≤ [0xAA#8].length ∧ 15 + 1 ≤ 16) ∧ (1 ≤ [0xAA#8, 0xBB#8].length ∧ 16 < 16 + 1)
      ∧ (16 ≤ (List.replicate 16 0xAA#8).length ∧ 16 < 1 + 16) ∧ (0 ≤ [0xAA#8].length ∧ 16 + 0 ≤ 16)
      ∧ (2 ≤ [0xAA#8, 0xBB#8, 0xCC#8].length ∧ 14 + 2 ≤ 16) := by decide

/-- The first slot, the last but one and the last, a disconnect before the last, and sixteen bytes in a row. -/
theorem witness_TableUploadReplacesTheTable :
    let byteAt (off : Fin 16) : State := { bench .ccproxy [] with pending := .upload off, acc := [0x2F#8, 0xF1#8] }
    let cut : State := receiving [.disconnect] { bench .ccproxy [] with pending := .upload 15 }
    let whole : State := { bench .ccproxy [] with pending := .upload 0, acc := table.toList ++ [0xF1#8] }
    (∀ off : Fin 16, (byteAt off).mode = .ccproxy ∧ (byteAt off).listing = false ∧ (byteAt off).pending = .upload off
        ∧ (byteAt off).acc = 0x2F#8 :: [0xF1#8] ∧ BothSends (byteAt off))
      ∧ (0 : Fin 16).val + 1 < 16 ∧ (14 : Fin 16).val + 1 < 16
      ∧ (cut.mode = .ccproxy ∧ cut.listing = false ∧ cut.pending = .upload 15 ∧ cut.acc = []
        ∧ cut.env.rx = .disconnect :: [])
      ∧ (BothSends whole ∧ whole.mode = .ccproxy ∧ whole.listing = false ∧ whole.pending = .upload 0
        ∧ whole.acc = table.toList ++ [0xF1#8]) := by decide

theorem witness_DebugErrorsLatch :
    (byteCommand (.ccStatus 0#8 0#8 0#8)).isSome = true ∧ (wordCommand (.ccPc 0#8 0#8 0#8)).isSome = true
      ∧ ({ bench .ccproxy [] with dw := session true true .notWired } : State).dw.lastError ≠ .none := by decide

/-- The three inputs of the shell. -/
theorem witness_ShellServesTheEnginePort :
    let s (port : List ShellInput) : State := { bench .shell [] with env := { (bench .shell []).env with port := port } }
    ((s []).mode = .shell ∧ (s []).pending = .none ∧ (s []).listing = false ∧ (s []).env.port = [])
      ∧ ((s [.exit]).mode = .shell ∧ (s [.exit]).env.port = [.exit])
      ∧ ((s [.call .dwHalt]).mode = .shell ∧ (s [.call .dwHalt]).env.port = [.call .dwHalt]) := by decide

/-- A state in the middle of a bulk write meets the invariant, beside the state after reset. -/
theorem witness_StepKeepsTheInvariant :
    State.reset.Inv
      ∧ State.Inv { bench .raw [] with pending := .bulk .raw 16, inbuf := [0xA5#8] } :=
  ⟨⟨rfl, rfl, rfl, rfl⟩, rfl, rfl, rfl, rfl⟩

theorem witness_StepKeepsTheGuardDiscipline :
    guardOpen ({ bench .i2c [] with inbuf := [0x02#8] } : State).trace = some false
      ∧ ∃ t, step { bench .i2c [] with inbuf := [0x02#8] } = .next t := ⟨rfl, _, rfl⟩

theorem witness_StepKeepsBuffersAndPinsInForm :
    let s : State := receiving [.chunk 0x02#8 []] (bench .bbio [])
    (∃ t, step s = .next t) ∧ s.Bounded ∧ pinsCanonical s.env.pins := by
  refine ⟨⟨_, rfl⟩, ⟨Nat.zero_le _, Nat.zero_le _, fun b bs h => ?_⟩, List.Pairwise.nil, by simp [receiving, bench, State.reset]⟩
  simp only [receiving, List.mem_singleton, RecvResult.chunk.injEq] at h
  simp [h, Config.chunkMax]

theorem witness_TraceAccountsForTheEnvironment :
    ∃ t, step (receiving [.chunk 0x02#8 []] (bench .bbio [])) = .next t := ⟨_, rfl⟩

theorem witness_ModesChangeOnlyAsTheTableSays :
    ∃ t, step { bench .bbio [] with inbuf := [0x02#8] } = .next t ∧ t.mode = .i2c := ⟨_, rfl, rfl⟩

/-- Both clauses: an active session, and a step outside the proxy and the shell. -/
theorem witness_DebugWireSessionSurvivesModeChanges :
    (∃ t, step { bench .select [] with inbuf := [0xF0#8] } = .next t) ∧ (bench .select []).dw.active = true
      ∧ (bench .select []).mode ≠ .ccproxy ∧ (bench .select []).mode ≠ .shell := ⟨⟨_, rfl⟩, rfl, by decide, by decide⟩

end Sys2Proof.Tests
end

section
/-! SUPPORT. The statements of the block's scope: the state after reset (spec 10_state.md R60, 70_reset_and_hazards.md R560)
and `SHELL` mode (44_bbio_framer.md R416). What an engine operation leaves unchanged is read off `EngineOnly`, which holds of
every call of the port. -/

namespace Sys2Proof.Machine

/-! ### What an engine operation leaves unchanged -/

/-- Pin, delay and guard activity is neither a `Send` nor a `Recv`. -/
theorem Event.no_transport_of_onBus {e : Event} (h : e.onBus = true) : (!e.isSend && !e.isRecv) = true := by
  cases e with
  | send bs r => cases h
  | recv n r => cases h
  | _ => rfl

section EngineFrame

variable {s t : State}

theorem EngineOnly.mode (h : EngineOnly s t) : t.mode = s.mode := by
  obtain ⟨i2c, ow, raw, dw, -, hbus⟩ := h
  exact hbus.mode

theorem EngineOnly.rx (h : EngineOnly s t) : t.env.rx = s.env.rx := by
  obtain ⟨i2c, ow, raw, dw, -, hbus⟩ := h
  exact hbus.rx

theorem EngineOnly.tx (h : EngineOnly s t) : t.env.tx = s.env.tx := by
  obtain ⟨i2c, ow, raw, dw, -, hbus⟩ := h
  exact hbus.tx

/-- An engine operation adds events to the trace, none of them a `Send` or a `Recv`. -/
theorem EngineOnly.trace_extends (h : EngineOnly s t) :
    ∃ es, t.trace = es ++ s.trace ∧ es.all (fun e => !e.isSend && !e.isRecv) = true := by
  obtain ⟨i2c, ow, raw, dw, -, es, rfl, hbus, -⟩ := h
  refine ⟨es.reverse, rfl, ?_⟩
  rw [List.all_reverse, List.all_eq_true]
  exact fun e he => Event.no_transport_of_onBus (List.all_eq_true.mp hbus e he)

end EngineFrame

/-! ### `SHELL` mode (R416) -/

/-- In `SHELL` with no command in progress a step is the shell's. -/
theorem step_of_shell {s : State} (hmode : s.mode = .shell) (hpending : s.pending = .none) (hlisting : s.listing = false) :
    step s = .next (shellStep s) := by
  simp [step, fetch, hmode, hpending, hlisting]

theorem shellStep_idle {s : State} (h : s.env.port = []) : shellStep s = s := by
  simp [shellStep, h]

theorem shellStep_exit {s : State} {more : List ShellInput} (h : s.env.port = .exit :: more) :
    shellStep s = enterSelect (State.after { s with env := { s.env with port := more } } [.shellExit] 0) := by
  simp [shellStep, h]

theorem shellStep_call {s : State} {c : EngineCall} {more : List ShellInput} (h : s.env.port = .call c :: more) :
    shellStep s = engineCall c { s with env := { s.env with port := more } } := by
  simp [shellStep, h]

/-- With no command in progress, entering `SELECT` writes the mode, the selector's two fields and the two buffers alone. -/
theorem enterSelect_of_no_command {s : State} (hpending : s.pending = .none) (hlisting : s.listing = false) :
    enterSelect s = { s with mode := .select, firstChunk := true, zeroRun := 0, inbuf := [], acc := [] } := by
  rw [enterSelect, ← hpending, ← hlisting]

/-- Settles O51: the three inputs of the shell, and for a call the frame of the engine operation it names. -/
theorem shellServesTheEnginePort : Obligations.ShellServesTheEnginePort := by
  intro s more hmode hpending hlisting
  rw [step_of_shell hmode hpending hlisting]
  refine ⟨fun hport => ?idle, fun hport => ?exit, fun c hport => ?call⟩
  case idle => rw [shellStep_idle hport]
  case exit =>
    rw [shellStep_exit hport]
    exact congrArg _ (enterSelect_of_no_command hpending hlisting)
  case call =>
    intro t
    have hop : EngineOnly t (engineOp c t).2 := engineOp_engineOnly c t
    rw [shellStep_call hport]
    exact ⟨rfl, hop.mode.trans hmode, hop.rx, hop.tx, hop.trace_extends⟩

/-! ### The state after reset (R60) -/

/-- Settles O52: the table of R60 is `State.reset` field by field, and the debug-wire pins are the images of three
distinct ids under a permutation (`dwPins_distinct`). -/
theorem resetLeavesTheStatedValues : Obligations.ResetLeavesTheStatedValues :=
  ⟨rfl, dwPins_distinct⟩

end Sys2Proof.Machine
end

section
/-! SUPPORT. What a command can do, said once for all 73: `exec_effect` answers, for every command and every state, a next
state that is one of the few shapes of `CommandEffect`. The invariants of a step are case analyses of these shapes. -/

namespace Sys2Proof.Machine

/-! ### Activity without transport -/

/-- `t` is `s` after events none of which is a `Send` or a `Recv`, with every guard closed and at most one draw for each
sample (R59, R575): `BusOnly` widened to the events that are not on the bus. -/
def Silent (s t : State) : Prop :=
  ∃ (es : List Event) (n : Nat), t = s.after es n ∧ n ≤ es.countP Event.isSample
    ∧ es.all (fun e => !e.isSend && !e.isRecv) = true ∧ guardOpen es.reverse = some false

theorem Silent.refl (s : State) : Silent s s := ⟨[], 0, rfl, Nat.zero_le _, rfl, rfl⟩

theorem Silent.trans {s t u : State} (h : Silent s t) (k : Silent t u) : Silent s u := by
  obtain ⟨es, m, rfl, hm, he, hg⟩ := h
  obtain ⟨fs, n, rfl, hn, hf, hk⟩ := k
  refine ⟨es ++ fs, m + n, State.after_after s es fs m n, ?_, by simp [he, hf], ?_⟩
  · rw [List.countP_append]
    exact Nat.add_le_add hm hn
  · rw [List.reverse_append]
    exact guardOpen_append hg hk

theorem BusOnly.silent {s t : State} (h : BusOnly s t) : Silent s t := by
  obtain ⟨es, rfl, hbus, hguard⟩ := h
  exact ⟨es, _, rfl, Nat.le_refl _,
    List.all_eq_true.mpr fun e he => Event.no_transport_of_onBus (List.all_eq_true.mp hbus e he), hguard⟩

/-! ### The pin commands' loops (R407, R408) -/

theorem getDir_silent (p : PinId) (s : State) : Silent s (getDir p s).2 := by
  cases h : (lookupPin p s.env.pins).input with
  | some d => rw [getDir_known h]; exact ⟨_, _, rfl, Nat.zero_le _, rfl, rfl⟩
  | none => rw [getDir_unknown h]; exact ⟨_, _, rfl, Nat.le_refl _, rfl, rfl⟩

theorem readDirs_silent : ∀ (pins : List (PinId × Nat)) (r : Byte) (s : State), Silent s (readDirs pins r s).2
  | [], _, s => Silent.refl s
  | pk :: pins, _, s => (getDir_silent pk.1 s).trans (readDirs_silent pins _ _)

theorem readLevels_busOnly : ∀ (pins : List (PinId × Nat)) (r : Byte) (s : State), BusOnly s (readLevels pins r s).2
  | [], _, s => BusOnly.refl s
  | pk :: pins, _, s => (BusOnly.getLevel pk.1 s).trans (readLevels_busOnly pins _ _)

/-- Each listed pin is given its direction by one event. -/
theorem pinDirEvents_busOnly (op : Byte) : ∀ (pins : List (PinId × Nat)) (s : State),
    BusOnly s (emit (pinDirEvents op pins) s)
  | [], s => BusOnly.refl s
  | pk :: pins, s => by
    have hfirst : BusOnly s (emit [if op.getLsbD pk.2 then .setInput pk.1 else .setOutput pk.1 false] s) := by
      cases op.getLsbD pk.2 <;> exact BusOnly.emit rfl rfl rfl s
    simpa [pinDirEvents] using hfirst.trans (pinDirEvents_busOnly op pins _)

theorem periph_silent (y z : Bool) (s : State) : Silent s (emit (periphEvents y z) s) :=
  (BusOnly.emit rfl rfl rfl s).silent

theorem execBbPindir_silent (a o d m c : Bool) (s : State) :
    Silent s (readDirs bbioPins 0x40#8 (emit (pinDirEvents (pinBits a o d m c) bbioPins) s)).2 :=
  (pinDirEvents_busOnly _ _ s).silent.trans (readDirs_silent _ _ _)

theorem execBbPinset_silent (a o d m c : Bool) (s : State) :
    Silent s (readLevels bbioPins 0x80#8 (emit (pinSetEvents (pinBits a o d m c) bbioPins) s)).2 :=
  ((BusOnly.emit rfl rfl rfl s).trans (readLevels_busOnly _ _ _)).silent

/-! ### The record of a search pass (R220) -/

theorem listRecord_found (u : State) :
    listRecord (true, u) = sendThen (romBytes u.ow.rom) (·.withListing true) u := rfl

theorem listRecord_end (u : State) : listRecord (false, u) = reply searchSentinel (u.withListing false) := rfl

/-! ### The shapes of a command -/

/-- The modes a command in progress may be in (R35). -/
def Pending.belongsTo (m : Mode) : Pending → Prop
  | .none => True
  | .bulk b k => m = b.mode ∧ 1 ≤ k ∧ k ≤ 16
  | .selfTest => m = .bbio
  | .upload _ => m = .ccproxy

/-- What a proxy command can do to the debug-wire session: `active` is kept, and debug mode is entered only where the
session is active (R51-R53). -/
def DwStays (d x : DwSession) : Prop :=
  x.active = d.active ∧ (x.inDebug = true → x.active = true ∨ d.inDebug = true)

theorem DwKept.stays {d x : DwSession} (h : DwKept d x) : DwStays d x := by
  obtain ⟨-, -, -, -, hactive, hdebug⟩ := h
  exact ⟨hactive, fun hx => .inr (hdebug hx)⟩

/-- The next states of a command of the context `ctx` that begins at `s` with its bytes consumed. -/
inductive CommandEffect (s : State) : Context → State → Prop where
  /-- something on the pins, then a reply -/
  | replies {ctx bs u} (hsilent : Silent s u) : CommandEffect s ctx (reply bs u)
  /-- a debug operation, then a reply (R463) -/
  | debugs {x bs u} (hdw : DwStays s.dw x) (hsilent : Silent (s.withDw x) u) :
      CommandEffect s ⟨.ccproxy, false⟩ (reply bs u)
  /-- a speed or a configuration of the raw session (R296, R297) -/
  | configuresRaw {x bs u}
      (hdelay : x.halfBitDelayUs = s.raw.halfBitDelayUs ∨ ∃ tier, x.halfBitDelayUs = Config.rawTierUs tier)
      (hsilent : Silent (s.withRaw x) u) : CommandEffect s ⟨.raw, false⟩ (reply bs u)
  /-- a first reply, after which the command waits for its bytes (R35) -/
  | begins {m bs p} (hp : p.belongsTo m) : CommandEffect s ⟨m, false⟩ (sendThen bs (·.withPending p) s)
  /-- a search pass and its record (R220) -/
  | lists {x u found} (hpin : x.pin = s.ow.pin) (hdisc : s.ow.lastDiscrepancy ≤ 64 → x.lastDiscrepancy ≤ 64)
      (hsilent : Silent (s.withOw x) u) : CommandEffect s ⟨.ow, false⟩ (listRecord (found, u))
  /-- `BB.I2C` (R401) -/
  | entersI2c {u} (hsilent : Silent (s.withI2c { scl := .clk, sda := .mosi }) u) :
      CommandEffect s ⟨.bbio, false⟩ (reply i2cName (u.withMode .i2c))
  /-- `BB.OW` (R402) -/
  | entersOw {u} (hsilent : Silent (s.withOw { s.ow with pin := .mosi }) u) :
      CommandEffect s ⟨.bbio, false⟩ (reply owName (u.withMode .ow))
  /-- `BB.RAW` (R403) -/
  | entersRaw {u} (hsilent : Silent (s.withRaw rawDefaults) u) :
      CommandEffect s ⟨.bbio, false⟩ (reply rawName (u.withMode .raw))
  /-- `BB.SHELL` (R404) -/
  | entersShell :
      CommandEffect s ⟨.bbio, false⟩
        (sendThen okByte (fun t => emit [.toShell] ((t.withInbuf []).withMode .shell)) s)
  /-- the exit from a sub-mode (R411) -/
  | leaves {m} (hm : m = .i2c ∨ m = .ow ∨ m = .raw) : CommandEffect s ⟨m, false⟩ (subModeExit s)
  /-- `SEL.CCPROXY` (R391) -/
  | selectsProxy :
      CommandEffect s ⟨.select, true⟩ (ccproxyEnter ((s.withAcc (0xF0#8 :: s.inbuf)).withMode .ccproxy))
  /-- `SEL.SHELL` (R391) -/
  | selectsShell : CommandEffect s ⟨.select, true⟩ (emit [.toShell] ((s.withInbuf []).withMode .shell))
  /-- a zero before the twentieth (R392) -/
  | countsZero (hrun : s.zeroRun + 1 < Config.zeroRun) :
      CommandEffect s ⟨.select, false⟩ (s.withZeroRun (s.zeroRun + 1))
  /-- the twentieth zero (R392) -/
  | selectsBbio : CommandEffect s ⟨.select, false⟩ (reply bbioName ((s.withZeroRun 0).withMode .bbio))
  /-- a byte that ends a run of zeros (R392) -/
  | endsZeroRun : CommandEffect s ⟨.select, false⟩ (s.withZeroRun 0)

theorem CommandEffect.replies_of_busOnly {s u : State} (h : BusOnly s u) {ctx : Context} {bs : List Byte} :
    CommandEffect s ctx (reply bs u) := .replies h.silent

/-- A reply with nothing before it. -/
theorem CommandEffect.replies_at_once {s : State} {ctx : Context} {bs : List Byte} : CommandEffect s ctx (reply bs s) :=
  .replies (.refl s)

/-- A send-bytes command has 1 to 16 bytes to come (R121). -/
theorem CommandEffect.begins_bulk (b : BulkMode) (n : BitVec 4) (s : State) :
    CommandEffect s ⟨b.mode, false⟩ (bulkStart b n s) :=
  .begins ⟨rfl, by simp [bulkCount], by have := n.isLt; simp only [bulkCount]; omega⟩

theorem CommandEffect.searches (cmd : SearchCommand) (s : State) :
    CommandEffect s ⟨.ow, false⟩ (searchListStart cmd s) := by
  obtain ⟨x, hbus, hpin, -, hdisc⟩ := owFindFirst_busOnly cmd s
  exact .lists hpin (fun _ => hdisc) hbus.silent

theorem CommandEffect.debugs_byte (slot : Fin 16) (args : List Byte) (s : State) :
    CommandEffect s ⟨.ccproxy, false⟩ (proxyReply8 (dwOp8 slot args s)) := by
  obtain ⟨x, hx, hbus⟩ := dwOp8_busOnly slot args s
  exact .debugs hx.stays hbus.silent

theorem CommandEffect.debugs_word (slot : Fin 16) (s : State) :
    CommandEffect s ⟨.ccproxy, false⟩ (proxyReply16 (dwOp16 slot [] s)) := by
  obtain ⟨x, hx, hbus⟩ := dwOp16_busOnly slot [] s
  exact .debugs hx.stays hbus.silent

theorem CommandEffect.exits_debug (s : State) : CommandEffect s ⟨.ccproxy, false⟩ (proxyReply8 (dwExit s)) := by
  obtain ⟨x, hx, -, hbus⟩ := dwExit_busOnly s
  exact .debugs hx.stays hbus.silent

theorem CommandEffect.enters_debug (s : State) : CommandEffect s ⟨.ccproxy, false⟩ (proxyReply ok0 (dwEnter s)) := by
  obtain ⟨x, -, hactive, hdebug, hbus⟩ := dwEnter_busOnly s
  exact .debugs ⟨hactive, hdebug⟩ hbus.silent

/-- The two outcomes of a zero in `SELECT` (R392). -/
theorem execSelZero_effect (s : State) : ∃ t, execSelZero s = .next t ∧ CommandEffect s ⟨.select, false⟩ t := by
  by_cases hrun : s.zeroRun + 1 < Config.zeroRun
  · exact ⟨_, by rw [execSelZero, if_pos hrun], .countsZero hrun⟩
  · exact ⟨_, by rw [execSelZero, if_neg hrun], .selectsBbio⟩

/-- Every command answers a next state (R131, R541), and it has one of the shapes of `CommandEffect`. -/
theorem exec_effect (i : Instr) (s : State) : ∃ t, exec i s = .next t ∧ CommandEffect s i.context t := by
  cases i with
  | selCcproxy => exact ⟨_, rfl, .selectsProxy⟩
  | selShell => exact ⟨_, rfl, .selectsShell⟩
  | selZero => exact execSelZero_effect s
  | selOther b => exact ⟨_, rfl, .endsZeroRun⟩
  | bbI2c => exact ⟨_, rfl, .entersI2c (i2cInit_busOnly .clk .mosi s).silent⟩
  | bbOw => exact ⟨_, rfl, .entersOw (owInit_busOnly .mosi s).silent⟩
  | bbRaw => exact ⟨_, rfl, .entersRaw (rawInit_busOnly s).silent⟩
  | bbShell => exact ⟨_, rfl, .entersShell⟩
  | bbSelftest => exact ⟨_, rfl, .begins rfl⟩
  | bbSelftestLong => exact ⟨_, rfl, .begins rfl⟩
  | bbPindir a o d m c => exact ⟨_, rfl, .replies (execBbPindir_silent a o d m c s)⟩
  | bbPinset p q a o d m c => exact ⟨_, rfl, .replies (execBbPinset_silent a o d m c s)⟩
  | i2cExit => exact ⟨_, rfl, .leaves (.inl rfl)⟩
  | i2cStart => exact ⟨_, rfl, .replies_of_busOnly (i2cStart_busOnly s)⟩
  | i2cStop => exact ⟨_, rfl, .replies_of_busOnly (i2cStop_busOnly s)⟩
  | i2cRead => exact ⟨_, rfl, .replies_of_busOnly (i2cReadByte_busOnly s)⟩
  | i2cAck => exact ⟨_, rfl, .replies_of_busOnly (i2cWriteBit_busOnly false s)⟩
  | i2cNack => exact ⟨_, rfl, .replies_of_busOnly (i2cWriteBit_busOnly true s)⟩
  | i2cWrite n => exact ⟨_, rfl, .begins_bulk .i2c n s⟩
  | i2cPeriph w x y z => exact ⟨_, rfl, .replies (periph_silent y z s)⟩
  | owExit => exact ⟨_, rfl, .leaves (.inr (.inl rfl))⟩
  | owReset => exact ⟨_, rfl, .replies_of_busOnly (owReset_busOnly false s)⟩
  | owRead => exact ⟨_, rfl, .replies_of_busOnly (owReadByte_busOnly s)⟩
  | owSearchRom => exact ⟨_, rfl, .searches .romSearch s⟩
  | owSearchAlarm => exact ⟨_, rfl, .searches .alarmSearch s⟩
  | owWrite n => exact ⟨_, rfl, .begins_bulk .ow n s⟩
  | owPeriph w x y z => exact ⟨_, rfl, .replies (periph_silent y z s)⟩
  | rawExit => exact ⟨_, rfl, .leaves (.inr (.inr rfl))⟩
  | rawStart => exact ⟨_, rfl, .replies_of_busOnly (rawStart_busOnly s)⟩
  | rawStop => exact ⟨_, rfl, .replies_of_busOnly (rawStop_busOnly s)⟩
  | rawCsLow => exact ⟨_, rfl, .replies_of_busOnly (rawCs_busOnly false s)⟩
  | rawCsHigh => exact ⟨_, rfl, .replies_of_busOnly (rawCs_busOnly true s)⟩
  | rawReadByte => exact ⟨_, rfl, .replies_of_busOnly (rawReadByte_busOnly s)⟩
  | rawReadBit => exact ⟨_, rfl, .replies_of_busOnly (rawReadBit_busOnly s)⟩
  | rawPeek => exact ⟨_, rfl, .replies_of_busOnly (rawPeek_busOnly s)⟩
  | rawTick => exact ⟨_, rfl, .replies_of_busOnly (rawTick_busOnly s)⟩
  | rawClkLow => exact ⟨_, rfl, .replies_of_busOnly (rawClock_busOnly false s)⟩
  | rawClkHigh => exact ⟨_, rfl, .replies_of_busOnly (rawClock_busOnly true s)⟩
  | rawDatLow => exact ⟨_, rfl, .replies_of_busOnly (rawData_busOnly false s)⟩
  | rawDatHigh => exact ⟨_, rfl, .replies_of_busOnly (rawData_busOnly true s)⟩
  | rawWrite n => exact ⟨_, rfl, .begins_bulk .raw n s⟩
  | rawPeriph w x y z => exact ⟨_, rfl, .replies (periph_silent y z s)⟩
  | rawSpeed tier => exact ⟨_, rfl, .configuresRaw (.inr ⟨tier, rfl⟩) (.refl _)⟩
  | rawConfig w x y z =>
    exact ⟨_, rfl, .configuresRaw (x := rawConfigured s.raw w x y) (.inl rfl) (rawApplyConfig_busOnly _).silent⟩
  | ccEnter => exact ⟨_, rfl, .enters_debug s⟩
  | ccExit => exact ⟨_, rfl, .exits_debug s⟩
  | ccChipId => exact ⟨_, rfl, .debugs_word slotChipId s⟩
  | ccPc => exact ⟨_, rfl, .debugs_word slotPc s⟩
  | ccStatus => exact ⟨_, rfl, .debugs_byte slotStatus [] s⟩
  | ccStep => exact ⟨_, rfl, .debugs_byte slotStep [] s⟩
  | ccExec1 a0 a1 a2 => exact ⟨_, rfl, .debugs_byte slotInstr1 [a0] s⟩
  | ccExec2 a0 a1 a2 => exact ⟨_, rfl, .debugs_byte slotInstr2 [a0, a1] s⟩
  | ccExec3 a0 a1 a2 => exact ⟨_, rfl, .debugs_byte slotInstr3 [a0, a1, a2] s⟩
  | ccRdCfg => exact ⟨_, rfl, .debugs_byte slotRdConfig [] s⟩
  | ccWrCfg a0 a1 a2 => exact ⟨_, rfl, .debugs_byte slotWrConfig [a0] s⟩
  | ccChipErase => exact ⟨_, rfl, .debugs_byte slotErase [] s⟩
  | ccResume => exact ⟨_, rfl, .debugs_byte slotResume [] s⟩
  | ccHalt => exact ⟨_, rfl, .debugs_byte slotHalt [] s⟩
  | ccInstrUpd => exact ⟨_, rfl, .begins rfl⟩
  | bbReset | bbVersion | bbUnknown | i2cVersion | i2cSpeed | i2cUnknown | owVersion | owUnknown | rawVersion
  | rawUnknown | ccPing | ccBurstWrite | ccInstrVer | ccUnknown => exact ⟨_, rfl, .replies_at_once⟩

end Sys2Proof.Machine
end

section
/-! SUPPORT. What a step can do, said once: `step_effect` puts every step that answers a next state into one of the few
shapes of `StepEffect`, and `step_next_of_commandOk` says that a step answers one wherever the command in progress belongs
to the mode. -/

namespace Sys2Proof.Machine

/-! ### The context of a decoded command (R127) -/

/-- Each map is a chain of tests: the context of its commands is read off branch by branch. -/
theorem context_ite {p : Prop} [Decidable p] {i j : Instr} {ctx : Context} (hi : i.context = ctx)
    (hj : j.context = ctx) : (if p then i else j).context = ctx := by
  split <;> assumption

theorem decodeBbio_context (b : Byte) : (decodeBbio b).context = ⟨.bbio, false⟩ := by
  unfold decodeBbio; repeat' apply context_ite
  all_goals rfl

theorem decodeI2c_context (b : Byte) : (decodeI2c b).context = ⟨.i2c, false⟩ := by
  unfold decodeI2c; repeat' apply context_ite
  all_goals rfl

theorem decodeOw_context (b : Byte) : (decodeOw b).context = ⟨.ow, false⟩ := by
  unfold decodeOw; repeat' apply context_ite
  all_goals rfl

theorem decodeRaw_context (b : Byte) : (decodeRaw b).context = ⟨.raw, false⟩ := by
  unfold decodeRaw; repeat' apply context_ite
  all_goals rfl

theorem decodeFrame_context (op a0 a1 a2 : Byte) : (decodeFrame op a0 a1 a2).context = ⟨.ccproxy, false⟩ := by
  unfold decodeFrame; repeat' apply context_ite
  all_goals rfl

/-- The selector's commands are leading ones only where the byte is a leading byte (R136). -/
theorem decodeSelect_context (leading : Bool) (b : Byte) :
    ∃ l, (decodeSelect leading b).context = ⟨.select, l⟩ ∧ (l = true → leading = true) := by
  unfold decodeSelect
  split_ifs with hproxy hshell
  · exact ⟨true, rfl, fun _ => (Bool.and_eq_true_iff.mp hproxy).1⟩
  · exact ⟨true, rfl, fun _ => (Bool.and_eq_true_iff.mp hshell).1⟩
  · exact ⟨false, rfl, nofun⟩
  · exact ⟨false, rfl, nofun⟩

/-- A bit-bang mode decodes the first byte of its buffer to a command of its own. -/
theorem decode_bitBang {m : Mode} (hm : m.bitBang = true) (b : Byte) (rest : List Byte) :
    ∃ i, decode ⟨m, false⟩ (b :: rest) = .ok (i, rest) ∧ i.context = ⟨m, false⟩ := by
  cases m with
  | bbio => exact ⟨_, rfl, decodeBbio_context b⟩
  | i2c => exact ⟨_, rfl, decodeI2c_context b⟩
  | ow => exact ⟨_, rfl, decodeOw_context b⟩
  | raw => exact ⟨_, rfl, decodeRaw_context b⟩
  | select | ccproxy | shell => cases hm

theorem decode_bitBang_nil {m : Mode} (hm : m.bitBang = true) : decode ⟨m, false⟩ [] = .error .noBytes := by
  cases m with
  | bbio | i2c | ow | raw => rfl
  | select | ccproxy | shell => cases hm

/-- The proxy decodes a whole frame, and nothing shorter (R461). -/
theorem decode_frame_cases (acc : List Byte) :
    (∃ i frame rest, acc = frame ++ rest ∧ decode ⟨.ccproxy, false⟩ acc = .ok (i, rest)
      ∧ i.context = ⟨.ccproxy, false⟩) ∨
    (acc.length < 4 ∧ decode ⟨.ccproxy, false⟩ acc = .error .shortFrame) := by
  match acc with
  | op :: a0 :: a1 :: a2 :: rest =>
    exact .inl ⟨_, [op, a0, a1, a2], rest, rfl, rfl, decodeFrame_context op a0 a1 a2⟩
  | [] | [_] | [_, _] | [_, _, _] => exact .inr ⟨by simp, rfl⟩

/-! ### Modes and receives -/

theorem Mode.not_of_bitBang {m : Mode} (h : m.bitBang = true) : m ≠ .select ∧ m ≠ .ccproxy ∧ m ≠ .shell := by
  refine ⟨?_, ?_, ?_⟩ <;> rintro rfl <;> cases h

/-- `s` with the result `r` received, and `rest` still to come. -/
def State.received (s : State) (r : RecvResult) (rest : List RecvResult) : State :=
  { s with env := { s.env with rx := rest }, trace := .recv Config.recvTimeout r :: s.trace }

@[simp] theorem State.received_mode (s : State) (r : RecvResult) (rest : List RecvResult) :
    (s.received r rest).mode = s.mode := rfl

theorem receive_received {s t : State} {r : RecvResult} (h : receive s = some (r, t)) :
    ∃ rest, s.env.rx = r :: rest ∧ t = s.received r rest := receive_some h

/-! ### The shapes of a step -/

/-- `u` is `s` with the input of its next part consumed and no command in progress left: the part is a command of the
context `ctx`, or the last part of one in progress, which has the shape of a command too. -/
inductive Begins (s : State) : Context → State → Prop where
  /-- a byte at hand of a chunk (R391, R398) -/
  | opcode {m b rest} (hmode : s.mode = m) (hpending : s.pending = .none) (hlisting : s.listing = false)
      (hbytes : s.inbuf = b :: rest) : Begins s ⟨m, false⟩ (s.withInbuf rest)
  /-- the first byte of a new chunk in `SELECT`: a leading byte in the first chunk only (R391) -/
  | chunk {leading b bs t} (hmode : s.mode = .select) (hpending : s.pending = .none) (hlisting : s.listing = false)
      (hrecv : receive s = some (.chunk b bs, t)) (hleading : leading = true → s.firstChunk = true) :
      Begins s ⟨.select, leading⟩ ((t.withInbuf bs).withFirstChunk false)
  /-- a whole frame (R461) -/
  | frame {bytes rest} (hmode : s.mode = .ccproxy) (hpending : s.pending = .none) (hlisting : s.listing = false)
      (hbytes : s.acc = bytes ++ rest) : Begins s ⟨.ccproxy, false⟩ (s.withAcc rest)
  /-- the closing byte of a self-test (R405) -/
  | closing {b rest} (hmode : s.mode = .bbio) (hlisting : s.listing = false) (hbytes : s.inbuf = b :: rest) :
      Begins s ⟨.bbio, false⟩ ((s.withInbuf rest).withPending .none)
  /-- the last byte of a table upload (R482) -/
  | lastUpload {b rest} (hmode : s.mode = .ccproxy) (hlisting : s.listing = false) (hbytes : s.acc = b :: rest) :
      Begins s ⟨.ccproxy, false⟩ ((s.withAcc rest).withPending .none)
  /-- a further pass of a search listing (R220) -/
  | nextPass (hmode : s.mode = .ow) (hpending : s.pending = .none) : Begins s ⟨.ow, false⟩ (s.withListing false)

/-- The next states of a step. -/
inductive StepEffect (s : State) : State → Prop where
  /-- a command, or the last part of one -/
  | command {ctx u t} (hbegins : Begins s ctx u) (heffect : CommandEffect u ctx t) : StepEffect s t
  /-- a payload byte of a send-bytes command (R412) -/
  | payload {m b rest p bs u} (hmode : s.mode = m) (hlisting : s.listing = false) (hbytes : s.inbuf = b :: rest)
      (hp : p.belongsTo m) (hsilent : Silent (s.withInbuf rest) u) :
      StepEffect s (sendThen bs (·.withPending p) u)
  /-- a byte of a table upload that is not its last (R482) -/
  | uploads {b rest x off} (hmode : s.mode = .ccproxy) (hlisting : s.listing = false) (hbytes : s.acc = b :: rest)
      (hdw : DwStays s.dw x) : StepEffect s (((s.withAcc rest).withDw x).withPending (.upload off))
  /-- a receive, or the wait for one, in a bit-bang mode (R394) -/
  | receives (hmode : s.mode.bitBang = true) (hbytes : s.inbuf = []) : StepEffect s (awaitInbuf s)
  /-- a receive, or the wait for one, in the proxy (R461) -/
  | accumulates (hmode : s.mode = .ccproxy) (hbytes : s.acc.length < 4) : StepEffect s (awaitAcc s)
  /-- the wait for input in `SELECT` (R541) -/
  | waits : StepEffect s s
  /-- a timeout in `SELECT` (R391) -/
  | selectorTimeout {t} (hmode : s.mode = .select) (hrecv : receive s = some (.timeout, t)) : StepEffect s t
  /-- a disconnect in `SELECT` (R391) -/
  | selectorDisconnect {t} (hmode : s.mode = .select) (hbytes : s.inbuf = [])
      (hrecv : receive s = some (.disconnect, t)) : StepEffect s ((t.withFirstChunk true).withZeroRun 0)
  /-- `SHELL` mode (R416) -/
  | shell (hmode : s.mode = .shell) : StepEffect s (shellStep s)

/-! ### Commands in progress -/

theorem BulkMode.mode_bitBang (m : BulkMode) : m.mode.bitBang = true := by
  cases m <;> rfl

/-- A byte of a send-bytes command, or the receive it waits for. -/
theorem bulk_effect {s : State} {m : BulkMode} {k : Nat} (hlisting : s.listing = false) (hmode : s.mode = m.mode)
    (hk : k ≤ 16) : StepEffect s (withNextByte (bulkByte m (k - 1)) s) := by
  unfold withNextByte
  split
  case h_1 hbytes => exact .receives (hmode ▸ m.mode_bitBang) hbytes
  case h_2 b rest hbytes =>
    refine .payload hmode hlisting hbytes ?_ (bulkUnit_busOnly m b _).silent
    split
    · trivial
    · exact ⟨rfl, by omega, by omega⟩

theorem selfTest_effect {s : State} (hlisting : s.listing = false) (hmode : s.mode = .bbio) :
    StepEffect s (withNextByte (fun _ t => selfTestClose t) s) := by
  unfold withNextByte
  split
  case h_1 hbytes => exact .receives (hmode ▸ rfl) hbytes
  case h_2 b rest hbytes => exact .command (.closing hmode hlisting hbytes) .replies_at_once

/-- A byte of a table upload, or the receive it waits for. -/
theorem upload_effect {s : State} {off : Fin 16} (hlisting : s.listing = false) (hmode : s.mode = .ccproxy) :
    StepEffect s (withNextAccByte (uploadByte off) s) := by
  unfold withNextAccByte
  split
  case h_1 hbytes => exact .accumulates hmode (by simp [hbytes])
  case h_2 b rest hbytes =>
    simp only [uploadByte, dwUpdateTable_eq]
    generalize hx : ({ (s.withAcc rest).dw with table := _ } : DwSession) = x
    have hdw : DwStays s.dw x := hx ▸ ⟨rfl, .inr⟩
    split
    · exact .uploads hmode hlisting hbytes hdw
    · exact .command (.lastUpload hmode hlisting hbytes) (.debugs (x := x) hdw (.refl _))

theorem listing_effect {s : State} (hmode : s.mode = .ow) (hpending : s.pending = .none) :
    StepEffect s (searchListNext (s.withListing false)) := by
  obtain ⟨x, hbus, hpin, -, hdisc⟩ := searchPass_busOnly (s.withListing false)
  exact .command (.nextPass hmode hpending) (.lists hpin hdisc hbus.silent)

/-! ### Fetching -/

/-- What a fetch may find: an idle step of one of the shapes, a command of the mode with its input consumed, or a command
in progress that does not belong to the mode. -/
def Fetched.Explained (s : State) : Fetched → Prop
  | .idle t => StepEffect s t
  | .run i u => Begins s i.context u
  | .stuck => s.commandOk = false

section Idle

variable {s : State} (hlisting : s.listing = false) (hpending : s.pending = .none)
include hlisting hpending

theorem fetchSelect_explained (hmode : s.mode = .select) : (fetchSelect s).Explained s := by
  unfold fetchSelect
  split
  case h_1 b rest hbytes =>
    obtain ⟨l, hctx, hl⟩ := decodeSelect_context false b
    have : l = false := by simpa using hl
    subst this
    exact (congrArg (Begins s · _) hctx).mpr (.opcode hmode hpending hlisting hbytes)
  case h_2 hbytes =>
    split
    case h_1 => exact .waits
    case h_2 t hrecv => exact .selectorTimeout hmode hrecv
    case h_3 t hrecv => exact .selectorDisconnect hmode hbytes hrecv
    case h_4 b bs t hrecv =>
      obtain ⟨l, hctx, hl⟩ := decodeSelect_context s.firstChunk b
      exact (congrArg (Begins s · _) hctx).mpr (.chunk hmode hpending hlisting hrecv hl)

theorem fetchOpcode_explained (hmode : s.mode.bitBang = true) : (fetchOpcode s).Explained s := by
  unfold fetchOpcode
  cases hbytes : s.inbuf with
  | nil =>
    rw [decode_bitBang_nil hmode]
    exact .receives hmode hbytes
  | cons b rest =>
    obtain ⟨i, hdecode, hctx⟩ := decode_bitBang hmode b rest
    rw [hdecode]
    exact (congrArg (Begins s · _) hctx).mpr (.opcode rfl hpending hlisting hbytes)

theorem fetchFrame_explained (hmode : s.mode = .ccproxy) : (fetchFrame s).Explained s := by
  unfold fetchFrame
  rcases decode_frame_cases s.acc with ⟨i, frame, rest, hbytes, hdecode, hctx⟩ | ⟨hshort, hdecode⟩
  · rw [hdecode]
    exact (congrArg (Begins s · _) hctx).mpr (.frame hmode hpending hlisting hbytes)
  · rw [hdecode]
    exact .accumulates hmode hshort

end Idle

/-- Every fetch is explained: the cases are those of R398, the command in progress first. -/
theorem fetch_explained (s : State) : (fetch s).Explained s := by
  unfold fetch
  split
  case isTrue hlisting =>
    split
    case isTrue h =>
      obtain ⟨hmode, hpending⟩ := h
      exact listing_effect hmode hpending
    case isFalse h => simpa [Fetched.Explained, State.commandOk, hlisting] using h
  case isFalse hlisting =>
    replace hlisting : s.listing = false := by simpa using hlisting
    cases hpending : s.pending with
    | bulk m k =>
      dsimp only
      split
      case isTrue h =>
        obtain ⟨hmode, -, hk⟩ := h
        exact bulk_effect hlisting hmode hk
      case isFalse h => simpa [Fetched.Explained, State.commandOk, hlisting, hpending] using h
    | selfTest =>
      dsimp only
      split
      case isTrue hmode => exact selfTest_effect hlisting hmode
      case isFalse h => simpa [Fetched.Explained, State.commandOk, hlisting, hpending] using h
    | upload off =>
      dsimp only
      split
      case isTrue hmode => exact upload_effect hlisting hmode
      case isFalse h => simpa [Fetched.Explained, State.commandOk, hlisting, hpending] using h
    | none =>
      cases hmode : s.mode with
      | select => exact fetchSelect_explained hlisting hpending hmode
      | bbio | i2c | ow | raw => exact fetchOpcode_explained hlisting hpending (hmode ▸ rfl)
      | ccproxy => exact fetchFrame_explained hlisting hpending hmode
      | shell => exact .shell hmode

/-! ### One step -/

/-- Every step that answers a next state has one of the shapes of `StepEffect`. -/
theorem step_effect {s t : State} (h : step s = .next t) : StepEffect s t := by
  have hfetch := fetch_explained s
  unfold step at h
  cases hf : fetch s with
  | idle u =>
    rw [hf] at h hfetch
    obtain rfl : u = t := by simpa using h
    exact hfetch
  | run i u =>
    rw [hf] at h hfetch
    obtain ⟨v, hexec, heffect⟩ := exec_effect i u
    obtain rfl : v = t := by simpa [hexec] using h
    exact .command hfetch heffect
  | stuck => simp [hf] at h

/-- A step answers a next state wherever the command in progress belongs to the mode (R131, R541). -/
theorem step_next_of_commandOk {s : State} (h : s.commandOk = true) : ∃ t, step s = .next t := by
  have hfetch := fetch_explained s
  unfold step
  cases hf : fetch s with
  | idle u => exact ⟨u, rfl⟩
  | run i u =>
    obtain ⟨t, hexec, -⟩ := exec_effect i u
    exact ⟨t, hexec⟩
  | stuck =>
    have : s.commandOk = false := by rwa [hf] at hfetch
    simp [this] at h

end Sys2Proof.Machine
end

section
/-! SUPPORT. What a step keeps of the environment, the buffers, the pins and the debug-wire session (spec 10_state.md R34,
R51, R55, R59, 20_memory.md R81): each a case analysis of `StepEffect`. -/

namespace Sys2Proof.Machine

/-! ### The trace accounts for the environment (R59, R81) -/

/-- `t` is `s` after some events, and its environment is what they make of the environment of `s`. -/
def Accounts (s t : State) : Prop :=
  ∃ es : List Event,
    t.trace = es.reverse ++ s.trace
      ∧ t.env.pins = pinEffects s.env.pins es
      ∧ t.env.tx = s.env.tx.drop (es.countP Event.isSend)
      ∧ t.env.rx = s.env.rx.drop (es.countP Event.isRecv)
      ∧ s.env.drawn ≤ t.env.drawn ∧ t.env.drawn ≤ s.env.drawn + es.countP Event.isSample
      ∧ t.env.levels = s.env.levels

section Accounts

variable {s t u : State}

/-- An update of fields beside the trace and the environment adds no event; so does one of the shell's script. -/
theorem Accounts.of_same_env (htrace : t.trace = s.trace) (henv : t.env = { s.env with port := t.env.port }) :
    Accounts s t := by
  refine ⟨[], htrace, ?_⟩
  rw [henv]
  exact ⟨rfl, rfl, rfl, Nat.le_refl _, Nat.le_refl _, rfl⟩

theorem Accounts.refl (s : State) : Accounts s s := .of_same_env rfl rfl

theorem Accounts.trans (h : Accounts s t) (k : Accounts t u) : Accounts s u := by
  obtain ⟨es, htrace, hpins, htx, hrx, hlow, hhigh, hlevels⟩ := h
  obtain ⟨fs, ktrace, kpins, ktx, krx, klow, khigh, klevels⟩ := k
  refine ⟨es ++ fs, ?_, ?_, ?_, ?_, ?_, ?_, klevels.trans hlevels⟩
  · rw [ktrace, htrace, List.reverse_append, List.append_assoc]
  · rw [kpins, hpins, pinEffects_append]
  · rw [ktx, htx, List.drop_drop, List.countP_append]
  · rw [krx, hrx, List.drop_drop, List.countP_append]
  · omega
  · rw [List.countP_append]
    omega

theorem countP_eq_zero_of_no_transport {es : List Event} (h : es.all (fun e => !e.isSend && !e.isRecv) = true) :
    es.countP Event.isSend = 0 ∧ es.countP Event.isRecv = 0 := by
  simp only [List.all_eq_true, Bool.and_eq_true, Bool.not_eq_true'] at h
  exact ⟨List.countP_eq_zero.mpr fun e he => by simp [(h e he).1],
    List.countP_eq_zero.mpr fun e he => by simp [(h e he).2]⟩

theorem Silent.accounts (h : Silent s t) : Accounts s t := by
  obtain ⟨es, n, rfl, hn, hes, -⟩ := h
  obtain ⟨hsend, hrecv⟩ := countP_eq_zero_of_no_transport hes
  exact ⟨es, rfl, rfl, by simp [hsend], by simp [hrecv], by simp, by simpa using hn, rfl⟩

theorem Accounts.sending (bs : List Byte) (r : SendResult) (s : State) : Accounts s (s.sending bs r) :=
  ⟨[.send bs r], rfl, rfl, List.drop_one.symm, rfl, Nat.le_refl _, Nat.le_refl _, rfl⟩

theorem Accounts.transportFault (s : State) : Accounts s (transportFault s) := .of_same_env rfl rfl

/-- A send accounts for one result, whether it goes on or faults (R527). -/
theorem Accounts.sendThen {bs : List Byte} {k : State → State} (hk : ∀ v, Accounts v (k v)) (s : State) :
    Accounts s (sendThen bs k s) := by
  rcases sendThen_cases bs k s with ⟨-, h⟩ | ⟨-, h⟩
  · rw [h]
    exact (Accounts.sending bs _ s).trans (hk _)
  · rw [h]
    exact (Accounts.sending bs _ s).trans (.transportFault _)

theorem Accounts.reply (bs : List Byte) (s : State) : Accounts s (reply bs s) := .sendThen .refl s

theorem Accounts.recv {r : RecvResult} {rest : List RecvResult} (hrx : s.env.rx = r :: rest) :
    Accounts s (s.received r rest) :=
  ⟨[.recv Config.recvTimeout r], rfl, rfl, rfl, by rw [hrx]; rfl, Nat.le_refl _, Nat.le_refl _, rfl⟩

theorem Accounts.receive {r : RecvResult} (h : receive s = some (r, t)) : Accounts s t := by
  obtain ⟨rest, hrx, rfl⟩ := receive_received h
  exact .recv hrx

theorem Accounts.awaitInbuf (s : State) : Accounts s (awaitInbuf s) := by
  rcases awaitInbuf_cases s with ⟨-, h⟩ | ⟨r, rest, hrx, h⟩
  · rw [h]
    exact .refl s
  · rw [h]
    cases r with
    | chunk b bs => exact (Accounts.recv hrx).trans (.of_same_env rfl rfl)
    | timeout => exact .recv hrx
    | disconnect => exact (Accounts.recv hrx).trans (.transportFault _)

theorem Accounts.awaitAcc (s : State) : Accounts s (awaitAcc s) := by
  rcases awaitAcc_cases s with ⟨-, h⟩ | ⟨r, rest, hrx, h⟩
  · rw [h]
    exact .refl s
  · rw [h]
    cases r with
    | chunk b bs => exact (Accounts.recv hrx).trans (.of_same_env rfl rfl)
    | timeout => exact .recv hrx
    | disconnect => exact (Accounts.recv hrx).trans (.transportFault _)

theorem Accounts.emit_toShell (s : State) : Accounts s (emit [.toShell] s) :=
  Silent.accounts ⟨_, _, rfl, Nat.zero_le _, rfl, rfl⟩

theorem EngineOnly.accounts (h : EngineOnly s t) : Accounts s t := by
  obtain ⟨i2c, ow, raw, dw, -, hbus⟩ := h
  exact (Accounts.of_same_env rfl rfl).trans hbus.silent.accounts

/-- A call through the port accounts for the operation's events between its own two (R416). -/
theorem Accounts.engineCall (c : EngineCall) (s : State) : Accounts s (engineCall c s) := by
  have hcall : Silent s (emit [.engineCall c] s) := ⟨_, _, rfl, Nat.zero_le _, rfl, rfl⟩
  have hop := engineOp_engineOnly c (emit [.engineCall c] s)
  have hreturn (v : EngineValue) (u : State) : Silent u (emit [.engineReturn v] u) :=
    ⟨_, _, rfl, Nat.zero_le _, rfl, rfl⟩
  exact (hcall.accounts.trans hop.accounts).trans (hreturn _ _).accounts

theorem Accounts.shellStep (s : State) : Accounts s (shellStep s) := by
  cases hport : s.env.port with
  | nil =>
    rw [shellStep_idle hport]
    exact .refl s
  | cons input more =>
    cases input with
    | exit =>
      rw [shellStep_exit hport]
      have hexit (u : State) : Silent u (u.after [.shellExit] 0) := ⟨_, _, rfl, Nat.le_refl _, rfl, rfl⟩
      exact ((Accounts.of_same_env rfl rfl).trans (hexit _).accounts).trans (.of_same_env rfl rfl)
    | call c =>
      rw [shellStep_call hport]
      exact (Accounts.of_same_env rfl rfl).trans (.engineCall c _)

/-- The entry to the proxy initialises an inactive session, and otherwise writes a buffer alone (R460). -/
theorem Accounts.ccproxyEnter (s : State) : Accounts s (ccproxyEnter s) := by
  unfold Machine.ccproxyEnter
  dsimp only
  split
  · exact (Accounts.of_same_env rfl rfl).trans (dwInit_busOnly _ _ _ _).silent.accounts
  · exact .of_same_env rfl rfl

theorem Begins.accounts {ctx : Context} (h : Begins s ctx t) : Accounts s t := by
  cases h with
  | chunk _ _ _ hrecv _ => exact (Accounts.receive hrecv).trans (.of_same_env rfl rfl)
  | _ => exact .of_same_env rfl rfl

theorem CommandEffect.accounts {ctx : Context} (h : CommandEffect s ctx t) : Accounts s t := by
  cases h with
  | replies hsilent => exact hsilent.accounts.trans (.reply _ _)
  | debugs _ hsilent => exact ((Accounts.of_same_env rfl rfl).trans hsilent.accounts).trans (.reply _ _)
  | configuresRaw _ hsilent => exact ((Accounts.of_same_env rfl rfl).trans hsilent.accounts).trans (.reply _ _)
  | begins _ =>
    refine .sendThen (fun _ => ?_) s
    exact .of_same_env rfl rfl
  | @lists x u found _ _ hsilent =>
    refine ((Accounts.of_same_env rfl rfl).trans hsilent.accounts).trans ?_
    cases found with
    | true =>
      rw [listRecord_found]
      refine .sendThen (fun _ => ?_) u
      exact .of_same_env rfl rfl
    | false =>
      rw [listRecord_end]
      exact (Accounts.of_same_env rfl rfl).trans (.reply _ _)
  | entersI2c hsilent | entersOw hsilent | entersRaw hsilent =>
    exact (((Accounts.of_same_env rfl rfl).trans hsilent.accounts).trans (.of_same_env rfl rfl)).trans (.reply _ _)
  | entersShell =>
    refine .sendThen (fun _ => ?_) s
    exact (Accounts.of_same_env rfl rfl).trans (.emit_toShell _)
  | leaves _ | selectsBbio => exact (Accounts.of_same_env rfl rfl).trans (.reply _ _)
  | selectsProxy => exact (Accounts.of_same_env rfl rfl).trans (.ccproxyEnter _)
  | selectsShell => exact (Accounts.of_same_env rfl rfl).trans (.emit_toShell _)
  | countsZero _ | endsZeroRun => exact .of_same_env rfl rfl

theorem StepEffect.accounts (h : StepEffect s t) : Accounts s t := by
  cases h with
  | command hbegins heffect => exact hbegins.accounts.trans heffect.accounts
  | payload _ _ _ _ hsilent =>
    refine ((Accounts.of_same_env rfl rfl).trans hsilent.accounts).trans (.sendThen (fun _ => ?_) _)
    exact .of_same_env rfl rfl
  | uploads => exact .of_same_env rfl rfl
  | receives => exact .awaitInbuf s
  | accumulates => exact .awaitAcc s
  | waits => exact .refl s
  | selectorTimeout _ hrecv => exact .receive hrecv
  | selectorDisconnect _ _ hrecv => exact (Accounts.receive hrecv).trans (.of_same_env rfl rfl)
  | shell => exact .shellStep s

end Accounts

/-- Settles O57: every shape of a step accounts for its events. -/
theorem traceAccountsForTheEnvironment : Obligations.TraceAccountsForTheEnvironment :=
  fun _ _ h => (step_effect h).accounts

/-! ### The buffers' bounds (R34, R55, R86) -/

/-- `t` holds no more buffered input than `s`. -/
def BuffersShrink (s t : State) : Prop :=
  t.inbuf.length ≤ s.inbuf.length ∧ t.acc.length ≤ s.acc.length

section Buffers

variable {s t u : State}

theorem BuffersShrink.of_eq (hinbuf : t.inbuf = s.inbuf) (hacc : t.acc = s.acc) : BuffersShrink s t :=
  ⟨hinbuf ▸ Nat.le_refl _, hacc ▸ Nat.le_refl _⟩

theorem BuffersShrink.refl (s : State) : BuffersShrink s s := .of_eq rfl rfl

theorem BuffersShrink.trans (h : BuffersShrink s t) (k : BuffersShrink t u) : BuffersShrink s u :=
  ⟨k.1.trans h.1, k.2.trans h.2⟩

theorem Silent.buffersShrink (h : Silent s t) : BuffersShrink s t := by
  obtain ⟨es, n, rfl, -⟩ := h
  exact .of_eq rfl rfl

theorem BuffersShrink.transportFault (s : State) : BuffersShrink s (transportFault s) :=
  ⟨Nat.zero_le _, Nat.zero_le _⟩

/-- A failed `Send` empties the buffers (R529). -/
theorem BuffersShrink.sendThen {bs : List Byte} {k : State → State} (hk : ∀ v, BuffersShrink v (k v)) (s : State) :
    BuffersShrink s (sendThen bs k s) := by
  rcases sendThen_cases bs k s with ⟨-, h⟩ | ⟨-, h⟩
  · rw [h]
    exact (BuffersShrink.of_eq rfl rfl).trans (hk _)
  · rw [h]
    exact (BuffersShrink.of_eq rfl rfl).trans (.transportFault _)

theorem BuffersShrink.reply (bs : List Byte) (s : State) : BuffersShrink s (reply bs s) := .sendThen .refl s

theorem BuffersShrink.emptied (hinbuf : t.inbuf = []) (hacc : t.acc = s.acc) : BuffersShrink s t :=
  ⟨by simp [hinbuf], by simp [hacc]⟩

theorem ccproxyEnter_acc (s : State) : (ccproxyEnter s).acc = s.acc := by
  unfold ccproxyEnter
  dsimp only
  split <;> rfl

theorem ccproxyEnter_inbuf (s : State) : (ccproxyEnter s).inbuf = [] := by
  unfold ccproxyEnter
  dsimp only
  split <;> rfl

/-- A command only consumes buffered input, but for the entry to the proxy, which moves the chunk (R391). -/
theorem CommandEffect.buffers {ctx : Context} (h : CommandEffect s ctx t) :
    BuffersShrink s t ∨ (t.inbuf = [] ∧ t.acc = 0xF0#8 :: s.inbuf) := by
  cases h with
  | selectsProxy => exact .inr ⟨ccproxyEnter_inbuf _, ccproxyEnter_acc _⟩
  | replies hsilent => exact .inl (hsilent.buffersShrink.trans (.reply _ _))
  | debugs _ hsilent | configuresRaw _ hsilent =>
    exact .inl (((BuffersShrink.of_eq rfl rfl).trans hsilent.buffersShrink).trans (.reply _ _))
  | begins _ =>
    refine .inl (.sendThen (fun _ => ?_) s)
    exact .of_eq rfl rfl
  | @lists x u found _ _ hsilent =>
    refine .inl (((BuffersShrink.of_eq rfl rfl).trans hsilent.buffersShrink).trans ?_)
    cases found with
    | true =>
      rw [listRecord_found]
      refine .sendThen (fun _ => ?_) u
      exact .of_eq rfl rfl
    | false =>
      rw [listRecord_end]
      exact (BuffersShrink.of_eq rfl rfl).trans (.reply _ _)
  | entersI2c hsilent | entersOw hsilent | entersRaw hsilent =>
    exact .inl
      ((((BuffersShrink.of_eq rfl rfl).trans hsilent.buffersShrink).trans (.of_eq rfl rfl)).trans (.reply _ _))
  | entersShell =>
    refine .inl (.sendThen (fun _ => ?_) s)
    exact .emptied rfl rfl
  | leaves _ | selectsBbio => exact .inl ((BuffersShrink.of_eq rfl rfl).trans (.reply _ _))
  | selectsShell => exact .inl (.emptied rfl rfl)
  | countsZero _ | endsZeroRun => exact .inl (.of_eq rfl rfl)

theorem Accounts.rx_subset (h : Accounts s t) : t.env.rx ⊆ s.env.rx := by
  obtain ⟨es, -, -, -, hrx, -⟩ := h
  rw [hrx]
  exact List.drop_subset _ _

/-- The coming chunks are bounded as they were, so only the two buffers need a look. -/
theorem Accounts.bounded (h : Accounts s t) (hs : s.Bounded) (hinbuf : t.inbuf.length ≤ Config.chunkMax)
    (hacc : t.acc.length ≤ Config.ccpBuf) : t.Bounded := by
  obtain ⟨-, -, hrx⟩ := hs
  exact ⟨hinbuf, hacc, fun b bs hmem => hrx b bs (h.rx_subset hmem)⟩

theorem BuffersShrink.bounded (h : BuffersShrink s t) (haccounts : Accounts s t) (hs : s.Bounded) : t.Bounded := by
  obtain ⟨hinbuf, hacc⟩ := h
  obtain ⟨kinbuf, kacc, -⟩ := id hs
  exact haccounts.bounded hs (hinbuf.trans kinbuf) (hacc.trans kacc)

/-- A chunk that the block receives is one of the coming ones. -/
theorem State.Bounded.received {b : Byte} {bs : List Byte} (hs : s.Bounded)
    (hrecv : receive s = some (.chunk b bs, t)) : bs.length + 1 ≤ Config.chunkMax := by
  obtain ⟨-, -, hrx⟩ := hs
  obtain ⟨rest, hs, -⟩ := receive_received hrecv
  exact hrx b bs (by simp [hs])

theorem receive_acc {r : RecvResult} (h : receive s = some (r, t)) : t.acc = s.acc := by
  obtain ⟨rest, -, rfl⟩ := receive_received h
  rfl

theorem receive_inbuf {r : RecvResult} (h : receive s = some (r, t)) : t.inbuf = s.inbuf := by
  obtain ⟨rest, -, rfl⟩ := receive_received h
  rfl

theorem Begins.bounded {ctx : Context} (h : Begins s ctx t) (hs : s.Bounded) : t.Bounded := by
  refine h.accounts.bounded hs ?_ ?_
  all_goals obtain ⟨hinbuf, hacc, -⟩ := id hs
  · cases h with
    | opcode _ _ _ hbytes | closing _ _ hbytes =>
      simp only [hbytes, List.length_cons] at hinbuf
      exact Nat.le_of_succ_le hinbuf
    | chunk _ _ _ hrecv _ => exact Nat.le_of_succ_le (hs.received hrecv)
    | frame | lastUpload | nextPass => exact hinbuf
  · cases h with
    | opcode | closing | nextPass => exact hacc
    | chunk _ _ _ hrecv _ => exact receive_acc hrecv ▸ hacc
    | frame _ _ _ hbytes =>
      rw [hbytes, List.length_append] at hacc
      exact (Nat.le_add_left _ _).trans hacc
    | lastUpload _ _ hbytes =>
      simp only [hbytes, List.length_cons] at hacc
      exact Nat.le_of_succ_le hacc

theorem CommandEffect.bounded {ctx : Context} (h : CommandEffect s ctx t) (hs : s.Bounded) : t.Bounded := by
  rcases h.buffers with hshrink | ⟨hinbuf, hacc⟩
  · exact hshrink.bounded h.accounts hs
  · refine h.accounts.bounded hs (by simp [hinbuf]) ?_
    have := hs.1
    simp only [hacc, List.length_cons, Config.ccpBuf]
    omega

theorem awaitInbuf_bounded (hs : s.Bounded) : (awaitInbuf s).Bounded := by
  rcases awaitInbuf_cases s with ⟨-, h⟩ | ⟨r, rest, hrx, h⟩
  · rwa [h]
  · have haccounts := Accounts.awaitInbuf s
    rw [h] at haccounts ⊢
    obtain ⟨hinbuf, hacc, hchunks⟩ := id hs
    cases r with
    | chunk b bs => exact haccounts.bounded hs (hchunks b bs (by simp [hrx])) hacc
    | timeout => exact haccounts.bounded hs hinbuf hacc
    | disconnect => exact haccounts.bounded hs (Nat.zero_le _) (Nat.zero_le _)

/-- The proxy receives with at most three bytes at hand, which is why `CCP_BUF` is three more than `CHUNK_MAX` (R55). -/
theorem awaitAcc_bounded (hs : s.Bounded) (hbytes : s.acc.length < 4) : (awaitAcc s).Bounded := by
  rcases awaitAcc_cases s with ⟨-, h⟩ | ⟨r, rest, hrx, h⟩
  · rwa [h]
  · have haccounts := Accounts.awaitAcc s
    rw [h] at haccounts ⊢
    obtain ⟨hinbuf, hacc, hchunks⟩ := id hs
    cases r with
    | chunk b bs =>
      refine haccounts.bounded hs hinbuf ?_
      have hchunk := hchunks b bs (by simp [hrx])
      simp only [State.withAcc_acc, List.length_append, Config.ccpBuf]
      omega
    | timeout => exact haccounts.bounded hs hinbuf hacc
    | disconnect => exact haccounts.bounded hs (Nat.zero_le _) (Nat.zero_le _)

theorem EngineOnly.buffersShrink (h : EngineOnly s t) : BuffersShrink s t := by
  obtain ⟨i2c, ow, raw, dw, -, hbus⟩ := h
  exact .of_eq hbus.inbuf hbus.acc

theorem shellStep_buffersShrink (s : State) : BuffersShrink s (shellStep s) := by
  cases hport : s.env.port with
  | nil =>
    rw [shellStep_idle hport]
    exact .refl s
  | cons input more =>
    cases input with
    | exit =>
      rw [shellStep_exit hport]
      exact ⟨Nat.zero_le _, Nat.zero_le _⟩
    | call c =>
      rw [shellStep_call hport]
      have hop := (engineOp_engineOnly c (emit [.engineCall c] { s with env := { s.env with port := more } }))
      exact (BuffersShrink.of_eq rfl rfl).trans (hop.buffersShrink.trans (.of_eq rfl rfl))

theorem StepEffect.bounded (h : StepEffect s t) (hs : s.Bounded) : t.Bounded := by
  have haccounts := h.accounts
  cases h with
  | command hbegins heffect => exact heffect.bounded (hbegins.bounded hs)
  | payload _ _ hbytes _ hsilent =>
    refine BuffersShrink.bounded (.trans ?consumed (hsilent.buffersShrink.trans (.sendThen (fun _ => ?_) _)))
      haccounts hs
    case consumed => exact ⟨by simp [hbytes], Nat.le_refl _⟩
    exact .of_eq rfl rfl
  | uploads _ _ hbytes => exact BuffersShrink.bounded (s := s) ⟨Nat.le_refl _, by simp [hbytes]⟩ haccounts hs
  | receives => exact awaitInbuf_bounded hs
  | accumulates _ hbytes => exact awaitAcc_bounded hs hbytes
  | waits => exact hs
  | selectorTimeout _ hrecv | selectorDisconnect _ _ hrecv =>
    exact BuffersShrink.bounded (.of_eq (receive_inbuf hrecv :) (receive_acc hrecv :)) haccounts hs
  | shell => exact (shellStep_buffersShrink s).bounded haccounts hs

end Buffers

/-! ### The tracked pins in canonical form (R59) -/

theorem Accounts.pinsCanonical {s t : State} (h : Accounts s t) (hs : pinsCanonical s.env.pins) :
    pinsCanonical t.env.pins := by
  obtain ⟨es, -, hpins, -⟩ := h
  rw [hpins]
  exact pinEffects_canonical hs es

/-- Settles O56: the buffers by the shapes of a step, the pins because a step's events are all that touches them. -/
theorem stepKeepsBuffersAndPinsInForm : Obligations.StepKeepsBuffersAndPinsInForm :=
  fun _ _ h => ⟨(step_effect h).bounded, (step_effect h).accounts.pinsCanonical⟩

/-! ### The debug-wire session (R51, R54, R460) -/

/-- What a step can do to the debug-wire session: nothing; a debug operation of the proxy; the entry to the proxy that
finds it inactive; or what an engine operation of the shell does. -/
inductive DwEffect (s t : State) : Prop where
  | unchanged (hdw : t.dw = s.dw)
  | debugs (hmode : s.mode = .ccproxy) (hdw : DwStays s.dw t.dw)
  | activates (hmode : t.mode = .ccproxy) (hbefore : s.dw.active = false) (hafter : t.dw.active = true)
  | shell (hmode : s.mode = .shell) (hdw : s.dw.active = true → t.dw.active = true)

section DebugWire

variable {s t u : State}

theorem Silent.dw (h : Silent s t) : t.dw = s.dw := by
  obtain ⟨es, n, rfl, -⟩ := h
  rfl

theorem sendThen_dw {bs : List Byte} {k : State → State} (hk : ∀ v, (k v).dw = v.dw) (s : State) :
    (sendThen bs k s).dw = s.dw := by
  rcases sendThen_cases bs k s with ⟨-, h⟩ | ⟨-, h⟩
  · rw [h, hk]
    rfl
  · rw [h]
    rfl

theorem reply_dw (bs : List Byte) (s : State) : (reply bs s).dw = s.dw := sendThen_dw (fun _ => rfl) s

theorem listRecord_dw (found : Bool) (u : State) : (listRecord (found, u)).dw = u.dw := by
  cases found with
  | true =>
    rw [listRecord_found]
    refine sendThen_dw (fun _ => ?_) u
    rfl
  | false =>
    rw [listRecord_end]
    exact reply_dw _ _

theorem awaitInbuf_dw (s : State) : (awaitInbuf s).dw = s.dw := by
  rcases awaitInbuf_cases s with ⟨-, h⟩ | ⟨r, rest, -, h⟩
  · rw [h]
  · rw [h]
    cases r <;> rfl

theorem awaitAcc_dw (s : State) : (awaitAcc s).dw = s.dw := by
  rcases awaitAcc_cases s with ⟨-, h⟩ | ⟨r, rest, -, h⟩
  · rw [h]
  · rw [h]
    cases r <;> rfl

theorem receive_dw {r : RecvResult} (h : receive s = some (r, t)) : t.dw = s.dw := by
  obtain ⟨rest, -, rfl⟩ := receive_received h
  rfl

theorem ccproxyEnter_mode (s : State) : (ccproxyEnter s).mode = s.mode := by
  unfold ccproxyEnter
  dsimp only
  split <;> rfl

/-- The entry to the proxy initialises a session only where it is not active (R460). -/
theorem ccproxyEnter_dw (s : State) :
    (ccproxyEnter s).dw = s.dw ∨ (s.dw.active = false ∧ (ccproxyEnter s).dw.active = true) := by
  unfold ccproxyEnter
  dsimp only
  split
  case isTrue h => exact .inr ⟨h, rfl⟩
  case isFalse => exact .inl rfl

theorem EngineOnly.dw_active (h : EngineOnly s t) (hs : s.dw.active = true) : t.dw.active = true := by
  obtain ⟨i2c, ow, raw, dw, ⟨-, -, hactive, -⟩, hbus⟩ := h
  rw [hbus.dw]
  exact hactive hs

theorem shellStep_dw_active (s : State) (hs : s.dw.active = true) : (shellStep s).dw.active = true := by
  cases hport : s.env.port with
  | nil => rwa [shellStep_idle hport]
  | cons input more =>
    cases input with
    | exit => rwa [shellStep_exit hport]
    | call c =>
      rw [shellStep_call hport]
      exact (engineOp_engineOnly c (emit [.engineCall c] { s with env := { s.env with port := more } })).dw_active hs

theorem Begins.dw {ctx : Context} (h : Begins s ctx t) : t.dw = s.dw := by
  cases h with
  | chunk _ _ _ hrecv _ => exact (receive_dw hrecv :)
  | _ => rfl

theorem Begins.mode {ctx : Context} (h : Begins s ctx t) : s.mode = ctx.mode := by
  cases h <;> assumption

theorem CommandEffect.dw {ctx : Context} (h : CommandEffect s ctx t) :
    t.dw = s.dw ∨ (ctx.mode = .ccproxy ∧ DwStays s.dw t.dw)
      ∨ (t.mode = .ccproxy ∧ s.dw.active = false ∧ t.dw.active = true) := by
  cases h with
  | debugs hdw hsilent => exact .inr (.inl ⟨rfl, by rw [reply_dw, hsilent.dw]; exact hdw⟩)
  | selectsProxy =>
    rcases ccproxyEnter_dw ((s.withAcc (0xF0#8 :: s.inbuf)).withMode .ccproxy) with h | ⟨hbefore, hafter⟩
    · exact .inl h
    · exact .inr (.inr ⟨ccproxyEnter_mode _, hbefore, hafter⟩)
  | replies hsilent | configuresRaw _ hsilent => exact .inl ((reply_dw _ _).trans hsilent.dw)
  | lists _ _ hsilent => exact .inl ((listRecord_dw _ _).trans hsilent.dw)
  | entersI2c hsilent | entersOw hsilent | entersRaw hsilent => exact .inl ((reply_dw _ _).trans hsilent.dw)
  | begins _ | entersShell =>
    refine .inl (sendThen_dw (fun _ => ?_) s)
    rfl
  | leaves _ | selectsBbio => exact .inl (reply_dw _ _)
  | selectsShell | countsZero _ | endsZeroRun => exact .inl rfl

theorem StepEffect.dw (h : StepEffect s t) : DwEffect s t := by
  cases h with
  | command hbegins heffect =>
    rcases heffect.dw with hdw | ⟨hmode, hdw⟩ | ⟨hmode, hbefore, hafter⟩
    · exact .unchanged (hdw.trans hbegins.dw)
    · exact .debugs (hbegins.mode.trans hmode) (hbegins.dw ▸ hdw)
    · exact .activates hmode (hbegins.dw ▸ hbefore) hafter
  | payload _ _ _ _ hsilent =>
    refine .unchanged ((sendThen_dw (fun _ => ?_) _).trans hsilent.dw)
    rfl
  | uploads hmode _ _ hdw => exact .debugs hmode hdw
  | receives => exact .unchanged (awaitInbuf_dw s)
  | accumulates => exact .unchanged (awaitAcc_dw s)
  | waits => exact .unchanged rfl
  | selectorTimeout _ hrecv | selectorDisconnect _ _ hrecv => exact .unchanged (receive_dw hrecv :)
  | shell hmode => exact .shell hmode (shellStep_dw_active s)

theorem DwEffect.active (h : DwEffect s t) (hs : s.dw.active = true) : t.dw.active = true := by
  cases h with
  | unchanged hdw => rwa [hdw]
  | debugs _ hdw => exact hdw.1.trans hs
  | activates _ _ hafter => exact hafter
  | shell _ hdw => exact hdw hs

end DebugWire

/-- Settles O59: an active session stays active in each case of `DwEffect`, and outside the proxy and the shell only the
first and the third case are left. -/
theorem debugWireSessionSurvivesModeChanges : Obligations.DebugWireSessionSurvivesModeChanges := by
  intro s t h
  have hdw := (step_effect h).dw
  refine ⟨hdw.active, fun hproxy hshell => ?_⟩
  cases hdw with
  | unchanged hdw => exact .inl hdw
  | activates hmode hbefore hafter => exact .inr ⟨hmode, hbefore, hafter⟩
  | debugs hmode _ => exact absurd hmode hproxy
  | shell hmode _ => exact absurd hmode hshell

end Sys2Proof.Machine
end

section
/-! SUPPORT. The invariant `State.Inv` (spec 10_state.md R31-R55): it holds after reset, and every step from a state that
meets it answers a next state that meets it. -/

namespace Sys2Proof.Machine

/-- Settles O53: with both buffers empty, no pin configured and nothing to come, each clause holds by its definition. -/
theorem resetMeetsTheInvariant : Obligations.ResetMeetsTheInvariant :=
  ⟨⟨rfl, rfl, rfl, rfl⟩, ⟨.nil, nofun⟩, rfl, Nat.zero_le _, Nat.zero_le _, nofun⟩

section Clauses

variable {s t : State}

/-! ### The clauses of the invariant, as propositions -/

theorem State.commandOk_iff (hlisting : s.listing = false) : s.commandOk = true ↔ s.pending.belongsTo s.mode := by
  unfold State.commandOk
  rw [hlisting]
  cases s.pending <;> simp [Pending.belongsTo, and_assoc]

theorem State.commandOk_of_idle (hpending : s.pending = .none) (hlisting : s.listing = false) : s.commandOk = true :=
  (State.commandOk_iff hlisting).mpr (hpending ▸ trivial)

theorem State.selectorOk_iff :
    s.selectorOk = true ↔ s.zeroRun < Config.zeroRun ∧ (s.mode ≠ .select → s.zeroRun = 0 ∧ s.firstChunk = false)
      ∧ (s.firstChunk = true → s.zeroRun = 0 ∧ s.inbuf = []) := by
  simp [State.selectorOk, ← Bool.not_eq_true, imp_iff_not_or, and_assoc]

theorem State.buffersOk_iff :
    s.buffersOk = true ↔ (s.mode ≠ .ccproxy → s.acc = []) ∧ (s.mode = .ccproxy ∨ s.mode = .shell → s.inbuf = []) := by
  simp [State.buffersOk, imp_iff_not_or]

/-- The clauses of `State.sessionsOk` by name. -/
structure SessionsLegal (s : State) : Prop where
  discrepancy : s.ow.lastDiscrepancy ≤ 64
  delay : s.raw.halfBitDelayUs ∈ [100, 10, 5, 1]
  rawOutside : s.mode ≠ .raw → s.raw = rawDefaults
  i2cPins : s.mode = .i2c → s.i2c = { scl := .clk, sda := .mosi }
  owPin : s.mode = .ow → s.ow.pin = .mosi
  debugActive : s.dw.inDebug = true → s.dw.active = true
  proxyActive : s.mode = .ccproxy → s.dw.active = true

theorem State.sessionsOk_iff : s.sessionsOk = true ↔ SessionsLegal s := by
  constructor
  · intro h
    simp only [State.sessionsOk, Bool.and_eq_true, Bool.or_eq_true, Bool.not_eq_true', decide_eq_true_eq,
      decide_eq_false_iff_not, List.contains_iff_mem] at h
    obtain ⟨⟨⟨⟨⟨⟨hdisc, hdelay⟩, hraw⟩, hi2c⟩, how⟩, hinner⟩, hproxy⟩ := h
    exact ⟨hdisc, hdelay, hraw.resolve_left, fun hm => hi2c.resolve_left (not_not_intro hm),
      fun hm => how.resolve_left (not_not_intro hm), fun hd => hinner.resolve_left (by simp [hd]),
      fun hm => hproxy.resolve_left (not_not_intro hm)⟩
  · rintro ⟨hdisc, hdelay, hraw, hi2c, how, hinner, hproxy⟩
    simp only [State.sessionsOk, Bool.and_eq_true, Bool.or_eq_true, Bool.not_eq_true', decide_eq_true_eq,
      decide_eq_false_iff_not, List.contains_iff_mem]
    exact ⟨⟨⟨⟨⟨⟨hdisc, hdelay⟩, or_iff_not_imp_left.mpr hraw⟩, imp_iff_not_or.mp hi2c⟩, imp_iff_not_or.mp how⟩,
      by simpa [← Bool.not_eq_true, imp_iff_not_or] using hinner⟩, imp_iff_not_or.mp hproxy⟩

theorem State.Inv.sessions (h : s.Inv) : SessionsLegal s := by
  obtain ⟨-, -, -, hsessions⟩ := h
  exact State.sessionsOk_iff.mp hsessions

theorem State.Inv.firstChunk_outside_select (h : s.Inv) (hmode : s.mode ≠ .select) :
    s.zeroRun = 0 ∧ s.firstChunk = false := by
  obtain ⟨-, hselector, -, -⟩ := h
  obtain ⟨-, houtside, -⟩ := State.selectorOk_iff.mp hselector
  exact houtside hmode

theorem State.Inv.acc_outside_ccproxy (h : s.Inv) (hmode : s.mode ≠ .ccproxy) : s.acc = [] := by
  obtain ⟨-, -, hbuffers, -⟩ := h
  exact (State.buffersOk_iff.mp hbuffers).1 hmode

/-- With no command in progress and the selector's fields at rest, the other two clauses are the invariant. -/
theorem State.inv_of_rest (hpending : s.pending = .none) (hlisting : s.listing = false) (hzero : s.zeroRun = 0)
    (hfirst : s.firstChunk = false) (hbuffers : s.buffersOk = true) (hs : SessionsLegal s) : s.Inv := by
  refine ⟨State.commandOk_of_idle hpending hlisting, State.selectorOk_iff.mpr ?_, hbuffers,
    State.sessionsOk_iff.mpr hs⟩
  simp [hzero, hfirst, Config.zeroRun]

/-! ### What the shared operations keep of it -/

theorem Silent.inv (h : Silent s t) (hs : s.Inv) : t.Inv := by
  obtain ⟨es, n, rfl, -⟩ := h
  exact hs

theorem Silent.withMode (h : Silent s t) (m : Mode) : Silent (s.withMode m) (t.withMode m) := by
  obtain ⟨es, n, rfl, hes⟩ := h
  exact ⟨es, n, rfl, hes⟩

theorem receive_inv {r : RecvResult} (h : receive s = some (r, t)) (hs : s.Inv) : t.Inv := by
  obtain ⟨rest, -, rfl⟩ := receive_received h
  exact hs

/-- A state back in `SELECT` with nothing kept needs its sessions alone. -/
theorem enterSelect_inv (hdisc : s.ow.lastDiscrepancy ≤ 64) (hraw : s.raw = rawDefaults)
    (hdebug : s.dw.inDebug = true → s.dw.active = true) : (enterSelect s).Inv :=
  ⟨rfl, rfl, rfl, State.sessionsOk_iff.mpr
    { discrepancy := hdisc
      delay := by simp [hraw, rawDefaults]
      rawOutside := fun _ => hraw
      i2cPins := nofun
      owPin := nofun
      debugActive := hdebug
      proxyActive := nofun }⟩

theorem transportFault_inv (h : SessionsLegal s) : (transportFault s).Inv := by
  refine enterSelect_inv h.discrepancy ?_ h.debugActive
  dsimp only
  split
  · rfl
  · exact h.rawOutside ‹_›

theorem sendThen_inv {bs : List Byte} {k : State → State} (hs : s.Inv) (hk : (k (s.sending bs .sent)).Inv) :
    (sendThen bs k s).Inv := by
  rcases sendThen_cases bs k s with ⟨-, h⟩ | ⟨-, h⟩
  · rwa [h]
  · rw [h]
    exact transportFault_inv (s := s.sending bs s.env.sendResult) (State.Inv.sessions hs)

theorem reply_inv (bs : List Byte) (h : s.Inv) : (reply bs s).Inv := sendThen_inv h h

theorem State.Inv.withDw {x : DwSession} (h : s.Inv) (hx : DwStays s.dw x) : (s.withDw x).Inv := by
  have hs := h.sessions
  obtain ⟨hcommand, hselector, hbuffers, -⟩ := h
  obtain ⟨hactive, hdebug⟩ := hx
  exact ⟨hcommand, hselector, hbuffers, State.sessionsOk_iff.mpr
    { hs with
      debugActive := fun hd => (hdebug hd).elim id fun hd => hactive.trans (hs.debugActive hd)
      proxyActive := fun hm => hactive.trans (hs.proxyActive hm) }⟩

theorem State.Inv.withRaw {x : RawSession} (h : s.Inv) (hmode : s.mode = .raw)
    (hdelay : x.halfBitDelayUs ∈ [100, 10, 5, 1]) : (s.withRaw x).Inv := by
  have hs := h.sessions
  obtain ⟨hcommand, hselector, hbuffers, -⟩ := h
  exact ⟨hcommand, hselector, hbuffers, State.sessionsOk_iff.mpr
    { hs with delay := hdelay, rawOutside := fun hm => absurd hmode hm }⟩

theorem State.Inv.withOw {x : OwSession} (h : s.Inv) (hpin : x.pin = s.ow.pin) (hdisc : x.lastDiscrepancy ≤ 64) :
    (s.withOw x).Inv := by
  have hs := h.sessions
  obtain ⟨hcommand, hselector, hbuffers, -⟩ := h
  exact ⟨hcommand, hselector, hbuffers, State.sessionsOk_iff.mpr
    { hs with discrepancy := hdisc, owPin := fun hm => hpin.trans (hs.owPin hm) }⟩

theorem State.Inv.withPending {p : Pending} (h : s.Inv) (hlisting : s.listing = false) (hp : p.belongsTo s.mode) :
    (s.withPending p).Inv := by
  obtain ⟨-, hselector, hbuffers, hsessions⟩ := h
  exact ⟨(State.commandOk_iff (s := s.withPending p) hlisting).mpr hp, hselector, hbuffers, hsessions⟩

theorem State.Inv.withListing {b : Bool} (h : s.Inv) (hmode : s.mode = .ow) (hpending : s.pending = .none) :
    (s.withListing b).Inv := by
  obtain ⟨-, hselector, hbuffers, hsessions⟩ := h
  exact ⟨by cases b <;> simp [State.commandOk, hmode, hpending], hselector, hbuffers, hsessions⟩

theorem State.Inv.withAcc {bs : List Byte} (h : s.Inv) (hmode : s.mode = .ccproxy) : (s.withAcc bs).Inv := by
  obtain ⟨hcommand, hselector, hbuffers, hsessions⟩ := h
  have hinbuf := (State.buffersOk_iff.mp hbuffers).2
  exact ⟨hcommand, hselector, State.buffersOk_iff.mpr ⟨fun hm => absurd hmode hm, hinbuf⟩, hsessions⟩

/-- Input may be kept wherever a chunk has been received, but for `CCPROXY` and `SHELL`. -/
theorem State.Inv.withInbuf {bs : List Byte} (h : s.Inv) (hfirst : s.firstChunk = false)
    (hmode : ¬ (s.mode = .ccproxy ∨ s.mode = .shell)) : (s.withInbuf bs).Inv := by
  obtain ⟨hcommand, hselector, hbuffers, hsessions⟩ := h
  obtain ⟨hrun, houtside, -⟩ := State.selectorOk_iff.mp hselector
  have hacc := (State.buffersOk_iff.mp hbuffers).1
  exact ⟨hcommand, State.selectorOk_iff.mpr ⟨hrun, houtside, fun hf => by simp [hfirst] at hf⟩,
    State.buffersOk_iff.mpr ⟨hacc, fun hm => absurd hm hmode⟩, hsessions⟩

/-- Where a byte of a chunk is at hand, a chunk has been received and the mode keeps input. -/
theorem State.Inv.of_inbuf_cons {b : Byte} {rest : List Byte} (h : s.Inv) (hbytes : s.inbuf = b :: rest) :
    s.firstChunk = false ∧ (s.withInbuf rest).Inv := by
  obtain ⟨-, hselector, hbuffers, -⟩ := id h
  obtain ⟨-, -, hempty⟩ := State.selectorOk_iff.mp hselector
  have hfirst : s.firstChunk = false := by
    by_contra hf
    simpa [hbytes] using (hempty (by simpa using hf)).2
  exact ⟨hfirst, h.withInbuf hfirst fun hm => by simpa [hbytes] using (State.buffersOk_iff.mp hbuffers).2 hm⟩

end Clauses

/-! ### Commands -/

/-- What holds of a state of the invariant where a command of the context `ctx` begins. -/
structure Ready (ctx : Context) (s : State) : Prop where
  inv : s.Inv
  mode : s.mode = ctx.mode
  pending : s.pending = .none
  listing : s.listing = false
  firstChunk : s.firstChunk = false
  zeroRun : ctx.leading = true → s.zeroRun = 0

section Commands

variable {s t : State}

theorem Begins.ready {ctx : Context} (h : Begins s ctx t) (hs : s.Inv) : Ready ctx t := by
  cases h with
  | opcode hmode hpending hlisting hbytes =>
    obtain ⟨hfirst, hinv⟩ := hs.of_inbuf_cons hbytes
    exact ⟨hinv, hmode, hpending, hlisting, hfirst, nofun⟩
  | @chunk leading b bs u hmode hpending hlisting hrecv hleading =>
    obtain ⟨rest, -, rfl⟩ := receive_received hrecv
    obtain ⟨hcommand, hselector, hbuffers, hsessions⟩ := hs
    obtain ⟨hrun, -, hempty⟩ := State.selectorOk_iff.mp hselector
    have hacc := (State.buffersOk_iff.mp hbuffers).1
    refine ⟨⟨hcommand, State.selectorOk_iff.mpr ?_, State.buffersOk_iff.mpr ?_, hsessions⟩,
      hmode, hpending, hlisting, rfl, fun hl => (hempty (hleading hl)).1⟩
    · exact ⟨hrun, fun hm => absurd hmode hm, nofun⟩
    · exact ⟨hacc, fun hm => by simp [hmode] at hm⟩
  | frame hmode hpending hlisting hbytes =>
    exact ⟨hs.withAcc hmode, hmode, hpending, hlisting, (hs.firstChunk_outside_select (by simp [hmode])).2, nofun⟩
  | closing hmode hlisting hbytes =>
    obtain ⟨hfirst, hinv⟩ := hs.of_inbuf_cons hbytes
    exact ⟨hinv.withPending hlisting trivial, hmode, rfl, hlisting, hfirst, nofun⟩
  | lastUpload hmode hlisting hbytes =>
    exact ⟨(hs.withAcc hmode).withPending hlisting trivial, hmode, rfl, hlisting,
      (hs.firstChunk_outside_select (by simp [hmode])).2, nofun⟩
  | nextPass hmode hpending =>
    exact ⟨hs.withListing hmode hpending, hmode, hpending, rfl,
      (hs.firstChunk_outside_select (by simp [hmode])).2, nofun⟩

theorem rawTierUs_legal (tier : BitVec 2) : Config.rawTierUs tier ∈ [100, 10, 5, 1] := by
  unfold Config.rawTierUs
  split <;> simp

/-- A bit-bang mode that is entered from another one finds the selector's fields at rest and no proxy input. -/
theorem Ready.entersBitBang {ctx : Context} {m : Mode} {i2c : I2cSession} {ow : OwSession} {raw : RawSession}
    (h : Ready ctx s) (hfrom : ctx.mode.bitBang = true) (hto : m.bitBang = true)
    (hs : SessionsLegal { s with mode := m, i2c := i2c, ow := ow, raw := raw }) :
    State.Inv { s with mode := m, i2c := i2c, ow := ow, raw := raw } := by
  obtain ⟨hselect, hproxy, -⟩ := Mode.not_of_bitBang (h.mode ▸ hfrom)
  obtain ⟨hzero, hfirst⟩ := h.inv.firstChunk_outside_select hselect
  have hacc := h.inv.acc_outside_ccproxy hproxy
  refine State.inv_of_rest h.pending h.listing hzero hfirst (State.buffersOk_iff.mpr ⟨fun _ => hacc, ?_⟩) hs
  obtain ⟨-, hto_proxy, hto_shell⟩ := Mode.not_of_bitBang hto
  exact fun hm => absurd hm (not_or.mpr ⟨hto_proxy, hto_shell⟩)

/-- `BB.SHELL` and `SEL.SHELL` keep no input (R391, R404). -/
theorem Ready.entersShell {ctx : Context} (h : Ready ctx s) (hzero : s.zeroRun = 0)
    (hproxy : s.mode ≠ .ccproxy) (hraw : s.mode ≠ .raw) : ((s.withInbuf []).withMode .shell).Inv :=
  State.inv_of_rest h.pending h.listing hzero h.firstChunk
    (State.buffersOk_iff.mpr ⟨fun _ => h.inv.acc_outside_ccproxy hproxy, fun _ => rfl⟩)
    { h.inv.sessions with
      rawOutside := fun _ => h.inv.sessions.rawOutside hraw
      i2cPins := nofun
      owPin := nofun
      proxyActive := nofun }

/-- The twentieth zero enters `BBIO` with the rest of the chunk (R392). -/
theorem Ready.selectsBbio {ctx : Context} (h : Ready ctx s) (hmode : s.mode = .select) :
    ((s.withZeroRun 0).withMode .bbio).Inv :=
  State.inv_of_rest h.pending h.listing rfl h.firstChunk
    (State.buffersOk_iff.mpr ⟨fun _ => h.inv.acc_outside_ccproxy (by simp [hmode]), by simp⟩)
    { h.inv.sessions with
      rawOutside := fun _ => h.inv.sessions.rawOutside (by simp [hmode])
      i2cPins := nofun
      owPin := nofun
      proxyActive := nofun }

/-- Leaving a sub-mode resets the raw session where it may differ from its defaults (R411). -/
theorem Ready.leaves {m : Mode} (h : Ready ⟨m, false⟩ s) (hm : m.bitBang = true) : (subModeExit s).Inv := by
  refine reply_inv _ (h.entersBitBang hm rfl ?_)
  have hraw : (if s.mode = .raw then rawDefaults else s.raw) = rawDefaults := by
    split
    · rfl
    · exact h.inv.sessions.rawOutside ‹_›
  rw [hraw]
  exact { h.inv.sessions with
    delay := by simp [rawDefaults]
    rawOutside := fun _ => rfl
    i2cPins := nofun
    owPin := nofun
    proxyActive := nofun }

/-- The proxy is entered with an active session, found or made so, and its input in `CCP.acc` (R460). -/
theorem Ready.entersProxy {acc : List Byte} (h : Ready ⟨.select, true⟩ s) :
    (ccproxyEnter ((s.withAcc acc).withMode .ccproxy)).Inv := by
  have hs := h.inv.sessions
  have hraw := hs.rawOutside (by simp [h.mode])
  have hbuffers (x : DwSession) : ((((s.withAcc acc).withMode .ccproxy).withInbuf []).withDw x).buffersOk = true :=
    State.buffersOk_iff.mpr ⟨fun hm => absurd rfl hm, fun _ => rfl⟩
  unfold ccproxyEnter
  dsimp only
  split
  case isTrue hactive =>
    refine (dwInit_busOnly _ _ _ _).silent.inv ?_
    exact State.inv_of_rest h.pending h.listing (h.zeroRun rfl) h.firstChunk (hbuffers _)
      { hs with
        rawOutside := fun _ => hraw
        i2cPins := nofun
        owPin := nofun
        debugActive := nofun
        proxyActive := fun _ => rfl }
  case isFalse hactive =>
    exact State.inv_of_rest h.pending h.listing (h.zeroRun rfl) h.firstChunk (hbuffers s.dw)
      { hs with
        rawOutside := fun _ => hraw
        i2cPins := nofun
        owPin := nofun
        proxyActive := fun _ => by simpa using hactive }

/-- The selector's count is free in `SELECT` once a chunk has been received (R392). -/
theorem Ready.withZeroRun {ctx : Context} {n : Nat} (h : Ready ctx s) (hmode : s.mode = .select)
    (hn : n < Config.zeroRun) : (s.withZeroRun n).Inv := by
  obtain ⟨hcommand, -, hbuffers, hsessions⟩ := h.inv
  refine ⟨hcommand, State.selectorOk_iff.mpr ⟨hn, fun hm => absurd hmode hm, fun hf => ?_⟩, hbuffers, hsessions⟩
  simp [h.firstChunk] at hf

theorem Ready.lists {x : OwSession} {found : Bool} {u : State} (h : Ready ⟨.ow, false⟩ s) (hpin : x.pin = s.ow.pin)
    (hdisc : x.lastDiscrepancy ≤ 64) (hsilent : Silent (s.withOw x) u) : (listRecord (found, u)).Inv := by
  have hu := hsilent.inv (h.inv.withOw hpin hdisc)
  obtain ⟨es, n, rfl, -⟩ := hsilent
  cases found with
  | true =>
    rw [listRecord_found]
    refine sendThen_inv hu ?_
    exact State.Inv.withListing hu h.mode h.pending
  | false =>
    rw [listRecord_end]
    exact reply_inv _ (State.Inv.withListing hu h.mode h.pending)

theorem CommandEffect.inv {ctx : Context} (h : CommandEffect s ctx t) (hs : Ready ctx s) : t.Inv := by
  have hsessions := hs.inv.sessions
  have hmode := hs.mode
  cases h with
  | replies hsilent => exact reply_inv _ (hsilent.inv hs.inv)
  | debugs hdw hsilent => exact reply_inv _ (hsilent.inv (hs.inv.withDw hdw))
  | configuresRaw hdelay hsilent =>
    refine reply_inv _ (hsilent.inv (hs.inv.withRaw hmode ?_))
    rcases hdelay with hkept | ⟨tier, htier⟩
    · exact hkept ▸ hsessions.delay
    · exact htier ▸ rawTierUs_legal tier
  | begins hp =>
    refine sendThen_inv hs.inv ?_
    exact State.Inv.withPending hs.inv hs.listing (hmode ▸ hp)
  | lists hpin hdisc hsilent => exact hs.lists hpin (hdisc hsessions.discrepancy) hsilent
  | entersI2c hsilent =>
    refine reply_inv _ ((hsilent.withMode .i2c).inv (hs.entersBitBang rfl rfl ?_))
    exact { hsessions with
      rawOutside := fun _ => hsessions.rawOutside (by simp [hmode])
      i2cPins := fun _ => rfl
      owPin := nofun
      proxyActive := nofun }
  | entersOw hsilent =>
    refine reply_inv _ ((hsilent.withMode .ow).inv (hs.entersBitBang rfl rfl ?_))
    exact { hsessions with
      rawOutside := fun _ => hsessions.rawOutside (by simp [hmode])
      i2cPins := nofun
      owPin := fun _ => rfl
      proxyActive := nofun }
  | entersRaw hsilent =>
    refine reply_inv _ ((hsilent.withMode .raw).inv (hs.entersBitBang rfl rfl ?_))
    exact { hsessions with
      delay := by simp [rawDefaults]
      rawOutside := fun _ => rfl
      i2cPins := nofun
      owPin := nofun
      proxyActive := nofun }
  | entersShell =>
    refine sendThen_inv hs.inv ?_
    have hzero := (hs.inv.firstChunk_outside_select (by simp [hmode])).1
    exact hs.entersShell hzero (by simp [hmode]) (by simp [hmode])
  | leaves hm => exact hs.leaves (by rcases hm with rfl | rfl | rfl <;> rfl)
  | selectsProxy => exact hs.entersProxy
  | selectsShell => exact hs.entersShell (hs.zeroRun rfl) (by simp [hmode]) (by simp [hmode])
  | countsZero hrun => exact hs.withZeroRun hmode hrun
  | selectsBbio => exact reply_inv _ (hs.selectsBbio hmode)
  | endsZeroRun => exact hs.withZeroRun hmode (Nat.zero_lt_succ _)

end Commands

/-! ### Steps -/

section Steps

variable {s t : State}

theorem awaitInbuf_inv (hs : s.Inv) (hmode : s.mode.bitBang = true) : (awaitInbuf s).Inv := by
  rcases awaitInbuf_cases s with ⟨-, h⟩ | ⟨r, rest, hrx, h⟩
  · rwa [h]
  · rw [h]
    cases r with
    | chunk b bs =>
      obtain ⟨hselect, hproxy, hshell⟩ := Mode.not_of_bitBang hmode
      exact State.Inv.withInbuf (s := s.received _ rest) hs (hs.firstChunk_outside_select hselect).2
        (not_or.mpr ⟨hproxy, hshell⟩)
    | timeout => exact hs
    | disconnect =>
      exact transportFault_inv (State.Inv.sessions (s := s.received _ rest) hs)

theorem awaitAcc_inv (hs : s.Inv) (hmode : s.mode = .ccproxy) : (awaitAcc s).Inv := by
  rcases awaitAcc_cases s with ⟨-, h⟩ | ⟨r, rest, hrx, h⟩
  · rwa [h]
  · rw [h]
    cases r with
    | chunk b bs =>
      exact State.Inv.withAcc (s := s.received _ rest) hs hmode
    | timeout => exact hs
    | disconnect =>
      exact transportFault_inv (State.Inv.sessions (s := s.received _ rest) hs)

/-- An engine operation keeps the invariant in `SHELL`, where no session has a mode to fit (R416). -/
theorem EngineOnly.inv (h : EngineOnly s t) (hs : s.Inv) (hmode : s.mode = .shell) : t.Inv := by
  obtain ⟨i2c, ow, raw, dw, ⟨hraw, hdisc, hactive, hdebug⟩, hbus⟩ := h
  have hsessions := hs.sessions
  have hdefaults := hsessions.rawOutside (by simp [hmode])
  obtain rfl : raw = rawDefaults := hraw.elim (·.trans hdefaults) id
  obtain ⟨hcommand, hselector, hbuffers, -⟩ := hs
  refine hbus.silent.inv ⟨hcommand, hselector, hbuffers, State.sessionsOk_iff.mpr ?_⟩
  exact {
    discrepancy := hdisc hsessions.discrepancy
    delay := by simp [rawDefaults]
    rawOutside := fun _ => rfl
    i2cPins := by simp [hmode]
    owPin := by simp [hmode]
    debugActive := fun hd => (hdebug hd).elim id fun hd => hactive (hsessions.debugActive hd)
    proxyActive := by simp [hmode] }

theorem shellStep_inv (hs : s.Inv) (hmode : s.mode = .shell) : (shellStep s).Inv := by
  have hsessions := hs.sessions
  cases hport : s.env.port with
  | nil => rwa [shellStep_idle hport]
  | cons input more =>
    cases input with
    | exit =>
      rw [shellStep_exit hport]
      exact enterSelect_inv hsessions.discrepancy (hsessions.rawOutside (by simp [hmode])) hsessions.debugActive
    | call c =>
      rw [shellStep_call hport]
      exact (engineOp_engineOnly c (emit [.engineCall c] { s with env := { s.env with port := more } })).inv hs hmode

/-- A disconnect resets the selector, which has no bytes at hand (R391). -/
theorem State.Inv.selectorReset (h : s.Inv) (hmode : s.mode = .select) (hbytes : s.inbuf = []) :
    ((s.withFirstChunk true).withZeroRun 0).Inv := by
  obtain ⟨hcommand, -, hbuffers, hsessions⟩ := h
  exact ⟨hcommand, State.selectorOk_iff.mpr ⟨Nat.zero_lt_succ _, fun hm => absurd hmode hm, fun _ => ⟨rfl, hbytes⟩⟩,
    hbuffers, hsessions⟩

theorem StepEffect.inv (h : StepEffect s t) (hs : s.Inv) : t.Inv := by
  cases h with
  | command hbegins heffect => exact heffect.inv (hbegins.ready hs)
  | payload hmode hlisting hbytes hp hsilent =>
    have hu := hsilent.inv (hs.of_inbuf_cons hbytes).2
    obtain ⟨es, n, rfl, -⟩ := hsilent
    refine sendThen_inv hu ?_
    exact State.Inv.withPending hu hlisting (hmode ▸ hp)
  | uploads hmode hlisting hbytes hdw => 
    exact State.Inv.withPending ((hs.withAcc hmode).withDw hdw) hlisting hmode
  | receives hmode => exact awaitInbuf_inv hs hmode
  | accumulates hmode => exact awaitAcc_inv hs hmode
  | waits => exact hs
  | selectorTimeout _ hrecv => exact receive_inv hrecv hs
  | selectorDisconnect hmode hbytes hrecv =>
    obtain ⟨rest, -, rfl⟩ := receive_received hrecv
    exact State.Inv.selectorReset (s := s.received _ rest) hs hmode hbytes
  | shell hmode => exact shellStep_inv hs hmode

end Steps

/-- Settles O54: the command in progress belongs to the mode, so the step answers a next state, and whichever shape the
step has, that state meets the invariant. -/
theorem stepKeepsTheInvariant : Obligations.StepKeepsTheInvariant := by
  intro s hs
  obtain ⟨hcommand, -⟩ := id hs
  obtain ⟨t, hstep⟩ := step_next_of_commandOk hcommand
  exact ⟨t, hstep, (step_effect hstep).inv hs⟩

end Sys2Proof.Machine
end

section
/-! SUPPORT. The bytes that the engines shift bit by bit (spec 20_memory.md R87-R90), and what the engines' loops over bits,
bytes and wait rounds do in full. -/

namespace Sys2Proof.Machine

/-! ### Bytes assembled bit by bit -/

theorem byteOf_eq_concat (f : Nat → Bool) :
    byteOf f = (((((((BitVec.ofBool (f 7)).concat (f 6)).concat (f 5)).concat (f 4)).concat (f 3)).concat (f 2)).concat
      (f 1)).concat (f 0) := rfl

theorem getLsbD_byteOf (f : Nat → Bool) {j : Nat} (hj : j < 8) : (byteOf f).getLsbD j = f j := by
  rw [byteOf_eq_concat]
  interval_cases j <;> simp [BitVec.getLsbD_concat, -BitVec.getLsbD_eq_getElem]

theorem byteOf_eq_iff {f : Nat → Bool} {v : Byte} : v = byteOf f ↔ ∀ j < 8, v.getLsbD j = f j := by
  constructor
  · rintro rfl j hj
    exact getLsbD_byteOf f hj
  · intro h
    exact BitVec.eq_of_getLsbD_eq fun j hj => (h j hj).trans (getLsbD_byteOf f hj).symm

theorem byteOf_congr {f g : Nat → Bool} (h : ∀ j < 8, f j = g j) : byteOf f = byteOf g :=
  byteOf_eq_iff.mpr fun j hj => (getLsbD_byteOf f hj).trans (h j hj)

/-- Bits set least significant first: sample `j` is bit `j` (R88). -/
theorem setByteBits_lsbOrder (f : Nat → Bool) :
    lsbOrder.zipIdx.foldl (fun w ik => setByteBit w ik.1 (f ik.2)) 0#8 = byteOf f := by
  rw [byteOf_eq_iff]
  intro j hj
  simp only [lsbOrder, List.zipIdx_cons, List.zipIdx_nil, List.foldl_cons, List.foldl_nil]
  interval_cases j <;> simp [getLsbD_setByteBit, -BitVec.getLsbD_eq_getElem]

/-- Bits set most significant first: sample `j` is bit `7 - j` (R87, R90). -/
theorem setByteBits_msbOrder (f : Nat → Bool) :
    msbOrder.zipIdx.foldl (fun w ik => setByteBit w ik.1 (f ik.2)) 0#8 = byteOf fun j => f (7 - j) := by
  rw [byteOf_eq_iff]
  intro j hj
  simp only [msbOrder, List.zipIdx_cons, List.zipIdx_nil, List.foldl_cons, List.foldl_nil]
  interval_cases j <;> simp [getLsbD_setByteBit, -BitVec.getLsbD_eq_getElem]

/-! ### The 1-Wire bytes (R205, R206) -/

theorem owWriteBit_eq (b : Bool) (s : State) : owWriteBit b s = s.after (owBitOut s.ow.pin b) 0 := rfl

theorem owWriteByte_eq (v : Byte) (s : State) :
    owWriteByte v s = s.after (lsbFirst.flatMap fun j => owBitOut s.ow.pin (v.getLsbD j)) 0 :=
  writeBits_eq (P := fun t => t.ow.pin = s.ow.pin) (evs := owBitOut s.ow.pin) v
    (fun b t ht => by rw [owWriteBit_eq, ht]) (fun _ _ _ h => h) lsbOrder s rfl

theorem owReadByte_eq (s : State) :
    owReadByte s = (byteOf s.level, s.after ((List.range 8).flatMap fun k => owBitIn s.ow.pin (s.level k)) 8) := by
  rw [← setByteBits_lsbOrder s.level]
  exact readBits_eq (P := fun t => t.ow.pin = s.ow.pin) (evs := owBitIn s.ow.pin)
    (fun t ht => by rw [owReadBit_eq, ht]; rfl) (fun _ _ _ h => h) lsbOrder 0#8 s rfl

/-! ### The debug-wire bytes (R325, R327) -/

theorem dwWriteBit_eq (b : Bool) (s : State) :
    dwWriteBit b s = s.after ([.set s.dw.dataPin b] ++ guardedLevel s.dw.clockPin true Config.dwClkHalfUs
      ++ guardedLevel s.dw.clockPin false Config.dwClkHalfUs) 0 := rfl

theorem dwReadBit_eq (s : State) : dwReadBit s = (s.level 0, s.after (dwBitIn s.dw (s.level 0)) 1) := by
  simp [dwReadBit, getLevel_eq, dwBitIn, guarded, guardedLevel]

theorem dwWriteByte_eq (v : Byte) (s : State) : dwWriteByte v s = s.after (dwByteOut s.dw v) 0 := by
  have h := writeBits_eq (write := dwWriteBit) (P := fun t => t.dw = s.dw)
    (evs := fun b => [.set s.dw.dataPin b] ++ guardedLevel s.dw.clockPin true Config.dwClkHalfUs
      ++ guardedLevel s.dw.clockPin false Config.dwClkHalfUs) v
    (fun b t ht => by rw [dwWriteBit_eq, ht]) (fun _ _ _ h => h) msbOrder s rfl
  exact h

theorem dwWriteBytes_eq (bytes : List Byte) :
    ∀ s : State, dwWriteBytes bytes s = s.after (bytes.flatMap (dwByteOut s.dw)) 0 := by
  induction bytes with
  | nil => exact fun _ => rfl
  | cons b bs ih =>
    intro s
    rw [dwWriteBytes_cons, dwWriteByte_eq, ih, State.after_after, State.after_dw, List.flatMap_cons]

theorem dwReadByte_eq (s : State) :
    dwReadByte s = (byteOf fun j => s.level (7 - j),
      s.after ((List.range 8).flatMap fun k => dwBitIn s.dw (s.level k)) 8) := by
  rw [← setByteBits_msbOrder s.level]
  exact readBits_eq (P := fun t => t.dw = s.dw) (evs := dwBitIn s.dw)
    (fun t ht => by rw [dwReadBit_eq, ht]) (fun _ _ _ h => h) msbOrder 0#8 s rfl

/-! ### The ready wait (R326) -/

theorem pulsesEvents_eq (d : DwSession) :
    pulsesEvents d.clockPin Config.dwClkHalfUs Config.dwPulsesPerRound = (List.replicate 8
      (guardedLevel d.clockPin true Config.dwClkHalfUs ++ guardedLevel d.clockPin false Config.dwClkHalfUs)).flatten :=
  rfl

/-- With no round left the target is given up. -/
theorem dwWaitReady_zero (waited : Bool) (s : State) : dwWaitReady 0 waited s = (false, s.withDw (dwUnwired s.dw)) := rfl

theorem State.after_withDw (s : State) (es : List Event) (n : Nat) (x : DwSession) :
    (s.after es n).withDw x = (s.withDw x).after es n := rfl

/-- A high sample costs one round. -/
theorem dwWaitReady_high {s : State} (h : s.level 0 = true) (rounds : Nat) (waited : Bool) :
    dwWaitReady (rounds + 1) waited s = dwWaitReady rounds true (s.after (dwRound s.dw) 1) := by
  simp [dwWaitReady, getLevel_eq, h, pulsesEvents_eq, dwRound]

/-- A low sample ends the wait. -/
theorem dwWaitReady_low {s : State} (h : s.level 0 = false) (rounds : Nat) (waited : Bool) :
    dwWaitReady (rounds + 1) waited s =
      (true, s.after ([.get s.dw.dataPin false] ++ if waited then [.delay Config.dwSampleWaitUs] else []) 1) := by
  cases waited <;> simp [dwWaitReady, getLevel_eq, h]

/-- `k` high samples cost `k` rounds. -/
theorem dwWaitReady_rounds (k : Nat) :
    ∀ (rounds : Nat) (waited : Bool) (s : State), (∀ j < k, s.level j = true) →
      dwWaitReady (rounds + k) waited s =
        dwWaitReady rounds (waited || decide (k ≠ 0)) (s.after (List.replicate k (dwRound s.dw)).flatten k) := by
  induction k with
  | zero => intro rounds waited s _; simp [State.after_nil]
  | succ k ih =>
    intro rounds waited s h
    have hrest : ∀ j < k, (s.after (dwRound s.dw) 1).level j = true := fun j hj => by
      rw [State.level_after, Nat.add_comm]
      exact h _ (Nat.succ_lt_succ hj)
    rw [← Nat.add_assoc, dwWaitReady_high (h 0 (Nat.succ_pos k)), ih _ _ _ hrest, State.after_after, Nat.add_comm 1 k]
    simp [List.replicate_succ, State.after]

theorem dwSwitchRead_eq (s : State) :
    dwSwitchRead s = dwWaitReady 255 false (s.after [.setInput s.dw.dataPin] 0) := rfl

theorem readyAfter_after (s : State) (es : List Event) (k : Nat) : (s.after es 0).readyAfter k ↔ s.readyAfter k := by
  simp [State.readyAfter]

theorem neverReady_after (s : State) (es : List Event) : (s.after es 0).neverReady ↔ s.neverReady := by
  simp [State.neverReady]

/-- The target is ready after `k` high samples. -/
theorem dwSwitchRead_ready {s : State} {k : Nat} (h : s.readyAfter k) :
    dwSwitchRead s = (true, s.after ([.setInput s.dw.dataPin] ++ dwReady s.dw k) (k + 1)) := by
  obtain ⟨hk, hhigh, hlow⟩ := h
  obtain ⟨rounds, hrounds⟩ : ∃ rounds, 255 = rounds + 1 + k := ⟨254 - k, by omega⟩
  rw [dwSwitchRead_eq, hrounds, dwWaitReady_rounds k _ _ _ (by simpa using hhigh), State.after_after,
    dwWaitReady_low (by simpa using hlow), State.after_after]
  cases k <;> simp [dwReady]

/-- The target is never ready. -/
theorem dwSwitchRead_neverReady {s : State} (h : s.neverReady) :
    dwSwitchRead s =
      (false, (s.withDw (dwUnwired s.dw)).after ([.setInput s.dw.dataPin] ++ dwGivesUp s.dw) 255) := by
  have hhigh : ∀ j < 255, (s.after [.setInput s.dw.dataPin] 0).level j = true := (neverReady_after s _).mpr h
  have hrounds := dwWaitReady_rounds 255 0 false _ hhigh
  rw [Nat.zero_add] at hrounds
  rw [dwSwitchRead_eq, hrounds, dwWaitReady_zero, State.after_after, State.after_dw, State.after_withDw, Nat.zero_add,
    State.after_dw, dwGivesUp]

end Sys2Proof.Machine
end

section
/-! SUPPORT. The commands that answer at once: the announcements (spec 44_bbio_framer.md R399, R400), the 1-Wire bytes
(41_onewire.md R233, R236) and the debug-wire words (45_ccproxy.md R468, R470). -/

namespace Sys2Proof.Machine

/-! ### The version commands -/

/-- A command that is one reply answers it. -/
theorem answers_of_reply {i : Instr} {s u : State} {bs : List Byte} (h : exec i s = .next (reply bs u))
    (hu : u.env.sendResult = s.env.sendResult) : Answers i s u bs := answers_of_sendThen h hu

/-- Settles O14: each of the five commands is its announcement alone. -/
theorem versionCommandsAnnounce : Obligations.VersionCommandsAnnounce := fun _ =>
  ⟨answers_of_reply rfl rfl, answers_of_reply rfl rfl, answers_of_reply rfl rfl, answers_of_reply rfl rfl,
    answers_of_reply rfl rfl⟩

/-! ### The 1-Wire bytes -/

theorem exec_owRead (s : State) : exec .owRead s = .next (reply [(owReadByte s).1] (owReadByte s).2) := rfl

/-- Settles O29: the eight slots of `owReadByte_eq`, and then the reply. -/
theorem owReadShiftsLsbFirst : Obligations.OwReadShiftsLsbFirst := by
  intro s
  have hexec := exec_owRead s
  rw [owReadByte_eq] at hexec
  exact answers_of_reply hexec (State.after_sendResult s _ 8)

/-- A step with a payload byte at hand consumes it (R412). -/
theorem step_of_bulk {s : State} {m : BulkMode} {k : Nat} {b : Byte} {rest : List Byte} (hmode : s.mode = m.mode)
    (hlisting : s.listing = false) (hpending : s.pending = .bulk m (k + 1)) (hk : k < 16)
    (hbytes : s.inbuf = b :: rest) : step s = .next (bulkByte m k b (s.withInbuf rest)) := by
  have hcount : 1 ≤ k + 1 ∧ k + 1 ≤ 16 := by omega
  simp [step, fetch, hlisting, hpending, hmode, hcount, withNextByte, hbytes]

theorem bulkByte_ow (k : Nat) (b : Byte) (s : State) :
    bulkByte .ow k b s =
      sendThen [b] (·.withPending (if k = 0 then .none else .bulk .ow k)) (owWriteByte b s) := rfl

/-- Settles O30: the step is the byte's eight slots and its echo (`owWriteByte_eq`), with the two outcomes of the `Send`. -/
theorem owPayloadByteIsEchoed : Obligations.OwPayloadByteIsEchoed := by
  intro s k b rest hmode hlisting hpending hk hbytes t
  have hstep : step s = .next (sendThen [b] (·.withPending (if k = 0 then .none else .bulk .ow k)) t) := by
    rw [step_of_bulk (m := .ow) hmode hlisting hpending hk hbytes, bulkByte_ow, owWriteByte_eq]
    rfl
  rw [hstep]
  have ht : t.env.sendResult = s.env.sendResult := rfl
  refine ⟨fun hsent => ?_, fun hfailed => ?_⟩
  · rw [sendThen_sent (ht.trans hsent)]
    rfl
  · rw [sendThen_failed (ht ▸ hfailed), ht]

/-! ### The debug-wire words -/

theorem dwCheck_of_debug {s : State} (hactive : s.dw.active = true) (hdebug : s.dw.inDebug = true) :
    dwCheck s = (true, s) := by
  simp [dwCheck, hactive, hdebug]

/-- In debug mode a request sends its bytes and switches to read (R328). -/
theorem dwRequest_of_debug {s : State} (hactive : s.dw.active = true) (hdebug : s.dw.inDebug = true) (slot : Fin 16)
    (args : List Byte) :
    dwRequest slot args s = dwSwitchRead (s.after
      ([.setOutput s.dw.dataPin false] ++ (s.dw.table[slot] :: args).flatMap (dwByteOut s.dw)) 0) := by
  simp only [dwRequest, dwCheck_of_debug hactive hdebug, if_true, emit_eq_after, dwWriteBytes_eq, State.after_after,
    State.after_dw]
  rfl

/-- A request of a target that is ready after `k` high samples. -/
theorem dwRequest_ready {s : State} {k : Nat} (hactive : s.dw.active = true) (hdebug : s.dw.inDebug = true)
    (h : s.readyAfter k) (slot : Fin 16) (args : List Byte) :
    dwRequest slot args s =
      (true, s.after (dwSent s.dw (s.dw.table[slot] :: args) ++ dwReady s.dw k) (k + 1)) := by
  rw [dwRequest_of_debug hactive hdebug, dwSwitchRead_ready ((readyAfter_after s _ k).mpr h)]
  simp [dwSent]

/-- A request of a target that is never ready. -/
theorem dwRequest_neverReady {s : State} (hactive : s.dw.active = true) (hdebug : s.dw.inDebug = true)
    (h : s.neverReady) (slot : Fin 16) (args : List Byte) :
    dwRequest slot args s =
      (false, (s.withDw (dwUnwired s.dw)).after
        (dwSent s.dw (s.dw.table[slot] :: args) ++ dwGivesUp s.dw) 255) := by
  rw [dwRequest_of_debug hactive hdebug, dwSwitchRead_neverReady ((neverReady_after s _).mpr h), State.after_dw,
    State.after_withDw, State.after_after]
  simp [dwSent]

/-- The sixteen samples of a word are those of its two bytes. -/
theorem range_sixteen_flatMap {α : Type} (f : Nat → List α) :
    (List.range 16).flatMap f = (List.range 8).flatMap f ++ (List.range 8).flatMap fun k => f (8 + k) := by
  rw [show 16 = 8 + 8 from rfl, List.range_add, List.flatMap_append, List.flatMap_map]

/-- A word is read high byte first (R90). -/
theorem dwOp16_ready {s : State} {k : Nat} (hactive : s.dw.active = true) (hdebug : s.dw.inDebug = true)
    (h : s.readyAfter k) (slot : Fin 16) :
    dwOp16 slot [] s =
      ((byteOf fun j => s.level (k + 8 - j)) ++ (byteOf fun j => s.level (k + 16 - j)),
        s.after (dwSent s.dw [s.dw.table[slot]] ++ dwReady s.dw k
          ++ (List.range 16).flatMap fun j => dwBitIn s.dw (s.level (k + 1 + j))) (k + 17)) := by
  have hhigh : (byteOf fun j => s.level (k + 1 + (7 - j))) = byteOf fun j => s.level (k + 8 - j) :=
    byteOf_congr fun j hj => congrArg s.level (by omega)
  have hlow : (byteOf fun j => s.level (k + 1 + 8 + (7 - j))) = byteOf fun j => s.level (k + 16 - j) :=
    byteOf_congr fun j hj => congrArg s.level (by omega)
  simp only [dwOp16, dwRequest_ready hactive hdebug h, if_true, dwReadByte_eq, State.after_after, State.after_dw,
    State.level_after]
  rw [hhigh, hlow, range_sixteen_flatMap]
  simp only [List.append_assoc, ← Nat.add_assoc]

theorem dwOp16_neverReady {s : State} (hactive : s.dw.active = true) (hdebug : s.dw.inDebug = true)
    (h : s.neverReady) (slot : Fin 16) :
    dwOp16 slot [] s =
      (0x0000#16, (s.withDw (dwUnwired s.dw)).after
        (dwSent s.dw [s.dw.table[slot]] ++ dwGivesUp s.dw) 255) := by
  simp only [dwOp16, dwRequest_neverReady hactive hdebug h, Bool.false_eq_true, if_false]

/-- The two word commands are their debug operation and its reply. -/
theorem exec_wordCommand {i : Instr} {slot : Fin 16} (h : wordCommand i = some slot) (s : State) :
    exec i s = .next (proxyReply16 (dwOp16 slot [] s)) := by
  unfold wordCommand at h
  split at h
  · cases h; rfl
  · cases h; rfl
  · cases h

/-- The success frame of a word has its low byte first (R91). -/
theorem ok16_append (high low : Byte) : ok16 (high ++ low) = [0x01#8, low, high] := by
  have hhigh : (high ++ low : Half).extractLsb' 8 8 = high := BitVec.extractLsb'_append_eq_left
  have hlow : (high ++ low : Half).extractLsb' 0 8 = low := BitVec.extractLsb'_append_eq_right
  rw [ok16, hlow, hhigh]

theorem proxyReply_dwReply (low high : Byte) (s : State) :
    proxyReply [0x01#8, low, high] s = reply (dwReply s.dw low high) s := by
  unfold proxyReply dwReply
  cases s.dw.lastError <;> rfl

/-- Settles O45: the debug operation in full (`dwOp16_ready`, `dwOp16_neverReady`), and the reply of its word. -/
theorem debugCommandsAnswerTheTargetsWord : Obligations.DebugCommandsAnswerTheTargetsWord := by
  intro i slot s hi hactive hdebug request
  have hexec := exec_wordCommand hi s
  refine ⟨fun k hready => ?_, fun hnever => ?_⟩
  · rw [dwOp16_ready hactive hdebug hready, proxyReply16, ok16_append, proxyReply_dwReply] at hexec
    exact answers_of_reply hexec (State.after_sendResult s _ _)
  · rw [dwOp16_neverReady hactive hdebug hnever, proxyReply16] at hexec
    exact answers_of_reply hexec (State.after_sendResult _ _ _)

end Sys2Proof.Machine
end

section
/-! SUPPORT. The payload of a send-bytes command (spec 44_bbio_framer.md R412). An engine call neither reads nor writes the
framer's buffer and the command in progress, so the calls of a payload can be moved past the steps that consume its bytes. -/

namespace Sys2Proof.Machine

/-! ### Engine operations beside the framer -/

/-- `s` with the framer's buffer and command in progress replaced. -/
def State.framed (s : State) (bytes : List Byte) (p : Pending) : State := (s.withInbuf bytes).withPending p

/-- The operation neither reads nor writes `S.inbuf` and `S.pending`. -/
def BesideFramer {α : Type} (op : State → α × State) : Prop :=
  ∀ s bytes p, op (s.framed bytes p) = ((op s).1, (op s).2.framed bytes p)

theorem BesideFramer.readBits {read : State → Bool × State} (h : BesideFramer read) (is : List Nat) :
    ∀ v, BesideFramer (readBits read is v) := by
  induction is with
  | nil => exact fun _ _ _ _ => rfl
  | cons i is ih =>
    intro v s bytes p
    simp only [Machine.readBits, h s bytes p]
    exact ih _ _ _ _

theorem writeBits_framed {write : Bool → State → State}
    (h : ∀ b s bytes p, write b (s.framed bytes p) = (write b s).framed bytes p) (v : Byte) (is : List Nat) :
    ∀ s bytes p, writeBits write v is (s.framed bytes p) = (writeBits write v is s).framed bytes p := by
  induction is with
  | nil => exact fun _ _ _ => rfl
  | cons i is ih =>
    intro s bytes p
    simp only [writeBits, h]
    exact ih _ _ _

theorem BesideFramer.exchangeBits {write : Bool → State → Bool × State} (h : ∀ b, BesideFramer (write b)) (v : Byte)
    (is : List Nat) : ∀ r, BesideFramer (exchangeBits write v is r) := by
  induction is with
  | nil => exact fun _ _ _ _ => rfl
  | cons i is ih =>
    intro r s bytes p
    simp only [Machine.exchangeBits, h _ s bytes p]
    exact ih _ _ _ _

theorem i2cReadBit_besideFramer : BesideFramer i2cReadBit := fun _ _ _ => rfl

theorem i2cWriteByte_besideFramer (v : Byte) : BesideFramer (i2cWriteByte v) := by
  intro s bytes p
  simp only [i2cWriteByte, writeBits_framed (write := i2cWriteBit) (fun _ _ _ _ => rfl)]
  exact i2cReadBit_besideFramer _ bytes p

theorem rawWriteBit_besideFramer (b : Bool) : BesideFramer (rawWriteBit b) := by
  intro s bytes p
  have hraw : (s.framed bytes p).raw = s.raw := rfl
  unfold rawWriteBit
  rw [hraw]
  cases s.raw.wireCount <;> rfl

theorem rawWriteByte_besideFramer (v : Byte) : BesideFramer (rawWriteByte v) := by
  intro s bytes p
  have hraw : (s.framed bytes p).raw = s.raw := rfl
  simp only [rawWriteByte, hraw, BesideFramer.exchangeBits rawWriteBit_besideFramer v _ _ s bytes p]

/-- A payload byte's engine call is beside the framer. -/
theorem bulkUnit_besideFramer (m : BulkMode) (b : Byte) : BesideFramer (bulkUnit m b) := by
  intro s bytes p
  cases m with
  | i2c => simp only [bulkUnit, i2cWriteByte_besideFramer b s bytes p]
  | ow => simp only [bulkUnit, owWriteByte, writeBits_framed (write := owWriteBit) (fun _ _ _ _ => rfl)]
  | raw => exact rawWriteByte_besideFramer b s bytes p

/-! ### One payload byte -/

/-- A payload byte's engine call and its accepted reply. -/
def payloadByte (m : BulkMode) (s : State) (b : Byte) : State := (bulkUnit m b s).2.sending [(bulkUnit m b s).1] .sent

/-- The command in progress with `k` payload bytes still to come. -/
def bulkLeft (m : BulkMode) (k : Nat) : Pending := if k = 0 then .none else .bulk m k

theorem payloadByte_framed (m : BulkMode) (b : Byte) (s : State) (bytes : List Byte) (p : Pending) :
    payloadByte m (s.framed bytes p) b = (payloadByte m s b).framed bytes p := by
  simp only [payloadByte, bulkUnit_besideFramer m b s bytes p]
  rfl

section PayloadFrame

variable (m : BulkMode) (b : Byte) (s : State)

theorem payloadByte_mode : (payloadByte m s b).mode = s.mode := (bulkUnit_busOnly m b s).mode
theorem payloadByte_listing : (payloadByte m s b).listing = s.listing := (bulkUnit_busOnly m b s).listing
theorem payloadByte_tx : (payloadByte m s b).env.tx = s.env.tx.tail :=
  congrArg List.tail (bulkUnit_busOnly m b s).tx

end PayloadFrame

/-- With its `Send` accepted, a payload byte leaves the command with one byte less to come. -/
theorem bulkByte_sent {m : BulkMode} {k : Nat} {b : Byte} {s : State} (h : s.env.sendResult = .sent) :
    bulkByte m k b s = (payloadByte m s b).withPending (bulkLeft m k) := by
  have hunit : (bulkUnit m b s).2.env.sendResult = .sent := by
    rw [Env.sendResult, (bulkUnit_busOnly m b s).tx]
    exact h
  rw [bulkByte]
  exact sendThen_sent hunit

/-- A step of a send-bytes command with a byte at hand whose `Send` is accepted. -/
theorem step_of_payload {s : State} {m : BulkMode} {k : Nat} {b : Byte} {rest : List Byte} (hmode : s.mode = m.mode)
    (hlisting : s.listing = false) (hpending : s.pending = bulkLeft m (k + 1)) (hk : k < 16)
    (hbytes : s.inbuf = b :: rest) (hsent : s.env.sendResult = .sent) :
    step s = .next ((payloadByte m s b).framed rest (bulkLeft m k)) := by
  rw [step_of_bulk hmode hlisting hpending hk hbytes, bulkByte_sent (s := s.withInbuf rest) hsent]
  have hunframed : s.withInbuf rest = s.framed rest s.pending := rfl
  rw [hunframed, payloadByte_framed]
  rfl

/-! ### The whole payload -/

theorem sendResult_of_take {e : Env} {n : Nat} (h : ∀ r ∈ e.tx.take (n + 1), r = .sent) :
    e.sendResult = .sent ∧ ∀ r ∈ e.tx.tail.take n, r = .sent := by
  unfold Env.sendResult
  cases htx : e.tx with
  | nil => simp
  | cons r rest =>
    simpa [htx] using h

theorem runs_succ {s t u : State} {n : Nat} (hstep : step s = .next t) (hruns : Runs n t u) : Runs (n + 1) s u := by
  have hcore : core.step s = .next t := hstep
  simp only [Runs, Host.Core.run, hcore]
  exact hruns

/-- The payload, from any state of the command: `s` with the payload consumed and the command over is where its bytes'
calls and replies begin. -/
theorem runs_payload (m : BulkMode) (rest : List Byte) (payload : List Byte) :
    ∀ s : State, s.mode = m.mode → s.listing = false → s.pending = bulkLeft m payload.length →
      payload.length ≤ 16 → s.inbuf = payload ++ rest → (∀ r ∈ s.env.tx.take payload.length, r = .sent) →
      Runs payload.length s (payload.foldl (payloadByte m) (s.framed rest .none)) := by
  induction payload with
  | nil =>
    intro s _ _ hpending _ hbytes _
    have hsame : s.framed rest .none = s := by
      obtain rfl : s.inbuf = rest := hbytes
      have hidle : s.pending = .none := hpending
      rw [← hidle]
      rfl
    rw [hsame]
    rfl
  | cons b payload ih =>
    intro s hmode hlisting hpending hlength hbytes htx
    obtain ⟨hsent, htail⟩ := sendResult_of_take htx
    have hstep := step_of_payload hmode hlisting hpending hlength hbytes hsent
    refine runs_succ hstep ?_
    have hnext : payloadByte m (s.framed rest .none) b
        = ((payloadByte m s b).framed (payload ++ rest) (bulkLeft m payload.length)).framed rest .none :=
      payloadByte_framed m b s rest .none
    rw [List.foldl_cons, hnext]
    refine ih _ ((payloadByte_mode m b s).trans hmode) ((payloadByte_listing m b s).trans hlisting) rfl
      (Nat.le_of_succ_le hlength) rfl ?_
    exact payloadByte_tx m b s ▸ htail

/-- Settles O23: the induction over the payload is `runs_payload`. -/
theorem bulkWriteConsumesItsWholePayload : Obligations.BulkWriteConsumesItsWholePayload := by
  intro m payload rest s one hmode hlisting hpending hnonempty hlength hbytes htx
  have hleft : bulkLeft m payload.length = .bulk m payload.length := if_neg (Nat.ne_of_gt hnonempty)
  exact runs_payload m rest payload s hmode hlisting (hpending.trans hleft.symm) hlength hbytes htx

end Sys2Proof.Machine
end

section
/-! SUPPORT. The response discipline (spec 20_memory.md R102, 44_bbio_framer.md R414): every command outside `SELECT` has the
shape of `SendsOnce`, one `Send` of at least one byte among activity without transport. -/

namespace Sys2Proof.Machine

/-! ### Activity without transport, on any fields -/

/-- `t` has the events of `s` and more, none of them a `Send` or a `Recv`, and the same transport results to come: what
`Silent` says of the trace and the scripts, whatever the command writes. -/
def Wordless (s t : State) : Prop :=
  ∃ es, t.trace = es ++ s.trace ∧ es.all (fun e => !e.isSend && !e.isRecv) = true
    ∧ t.env.rx = s.env.rx ∧ t.env.tx = s.env.tx

section Wordless

variable {s t u : State}

/-- Writing fields beside the environment and the trace. -/
theorem Wordless.of_same (htrace : t.trace = s.trace) (henv : t.env = s.env) : Wordless s t :=
  ⟨[], htrace, rfl, henv ▸ rfl, henv ▸ rfl⟩

theorem Wordless.refl (s : State) : Wordless s s := .of_same rfl rfl

theorem Wordless.trans (h : Wordless s t) (k : Wordless t u) : Wordless s u := by
  obtain ⟨es, htrace, hes, hrx, htx⟩ := h
  obtain ⟨fs, ktrace, hfs, krx, ktx⟩ := k
  refine ⟨fs ++ es, ?_, by rw [List.all_append, hes, hfs]; rfl, krx.trans hrx, ktx.trans htx⟩
  rw [ktrace, htrace, List.append_assoc]

theorem Silent.wordless (h : Silent s t) : Wordless s t := by
  obtain ⟨es, n, rfl, -, hes, -⟩ := h
  exact ⟨es.reverse, rfl, by rwa [List.all_reverse], rfl, rfl⟩

theorem BusOnly.wordless (h : BusOnly s t) : Wordless s t := h.silent.wordless

theorem Wordless.sendResult (h : Wordless s t) : t.env.sendResult = s.env.sendResult := by
  obtain ⟨-, -, -, -, htx⟩ := h
  rw [Env.sendResult, Env.sendResult, htx]

theorem EngineOnly.wordless (h : EngineOnly s t) : Wordless s t := by
  obtain ⟨es, htrace, hes⟩ := h.trace_extends
  exact ⟨es, htrace, hes, h.rx, h.tx⟩

theorem engineOp_wordless (c : EngineCall) (s : State) : Wordless s (engineOp c s).2 := (engineOp_engineOnly c s).wordless

end Wordless

theorem sentUnits_append (es fs : List Event) : sentUnits (es ++ fs) = sentUnits es ++ sentUnits fs :=
  List.filterMap_append

theorem sentUnits_eq_nil {es : List Event} (h : es.all (fun e => !e.isSend && !e.isRecv) = true) :
    sentUnits es = [] := by
  refine List.filterMap_eq_nil_iff.mpr fun e he => ?_
  have hquiet := List.all_eq_true.mp h e he
  cases e with
  | send bs r => cases hquiet
  | _ => rfl

theorem all_not_isRecv {es : List Event} (h : es.all (fun e => !e.isSend && !e.isRecv) = true) :
    es.all (fun e => !e.isRecv) = true := by
  simp only [List.all_eq_true, Bool.and_eq_true] at h ⊢
  exact fun e he => (h e he).2

/-! ### One `Send` -/

/-- The next states with one `Send` of at least one byte, and only activity without transport before and after it. -/
inductive SendsOnce (s : State) : State → Prop where
  | mk {u bs k} (hbefore : Wordless s u) (hbytes : bs ≠ []) (hafter : ∀ v, Wordless v (k v)) :
      SendsOnce s (sendThen bs k u)

section SendsOnce

variable {s t u : State} {bs : List Byte}

/-- The events of such a state, where its `Send` is accepted. -/
theorem SendsOnce.events (h : SendsOnce s t) (hsent : s.env.sendResult = .sent) :
    ∃ (es : List Event) (reply : List Byte), t.trace = es ++ s.trace ∧ sentUnits es = [reply] ∧ reply ≠ []
      ∧ es.all (fun e => !e.isRecv) = true ∧ t.env.rx = s.env.rx ∧ t.env.tx = s.env.tx.tail := by
  obtain @⟨u, bs, k, hbefore, hbytes, hafter⟩ := h
  rw [sendThen_sent (hbefore.sendResult.trans hsent)]
  obtain ⟨es, htrace, hes, hrx, htx⟩ := hbefore
  obtain ⟨fs, ktrace, hfs, krx, ktx⟩ := hafter (u.sending bs .sent)
  refine ⟨fs ++ .send bs .sent :: es, bs, ?_, ?_, hbytes, ?_, krx.trans hrx, ktx.trans (congrArg List.tail htx)⟩
  · rw [ktrace, List.append_assoc, List.cons_append, ← htrace]
    rfl
  · have hsend : sentUnits (.send bs .sent :: es) = bs :: sentUnits es := rfl
    rw [sentUnits_append, hsend, sentUnits_eq_nil hes, sentUnits_eq_nil hfs]
    rfl
  · rw [List.all_append, all_not_isRecv hfs, List.all_cons, all_not_isRecv hes]
    rfl

theorem SendsOnce.reply (hbefore : Wordless s u) (hbytes : bs ≠ []) : SendsOnce s (reply bs u) :=
  .mk hbefore hbytes .refl

theorem SendsOnce.begins {p : Pending} (hbytes : bs ≠ []) : SendsOnce s (sendThen bs (·.withPending p) s) :=
  .mk (.refl s) hbytes fun _ => .of_same rfl rfl

theorem SendsOnce.entersShell (s : State) :
    SendsOnce s (sendThen okByte (fun t => emit [.toShell] ((t.withInbuf []).withMode .shell)) s) :=
  .mk (.refl s) (List.cons_ne_nil _ _) fun _ => ⟨[.toShell], rfl, rfl, rfl, rfl⟩

theorem SendsOnce.leaves (s : State) : SendsOnce s (subModeExit s) :=
  .reply (.of_same rfl rfl) (List.cons_ne_nil _ _)

/-- A record of a search is eight bytes (R220). -/
theorem SendsOnce.record (h : Wordless s u) (found : Bool) : SendsOnce s (listRecord (found, u)) := by
  cases found with
  | true =>
    rw [listRecord_found]
    exact .mk h (by simp [romBytes]) fun _ => .of_same rfl rfl
  | false =>
    rw [listRecord_end]
    exact .reply (h.trans (.of_same rfl rfl)) (by simp [searchSentinel])

theorem SendsOnce.searches (cmd : SearchCommand) (s : State) : SendsOnce s (searchListStart cmd s) :=
  .record (engineOp_wordless (.owFindFirst cmd) s) _

/-- The proxy's reply is the success frame or an error frame (R463). -/
theorem SendsOnce.proxyReply {success : List Byte} (h : Wordless s u) (hsuccess : success ≠ []) :
    SendsOnce s (proxyReply success u) := by
  refine .reply h ?_
  split
  · exact hsuccess
  · exact List.cons_ne_nil _ _

theorem SendsOnce.debugs_byte (slot : Fin 16) (args : List Byte) (s : State) :
    SendsOnce s (proxyReply8 (dwOp8 slot args s)) :=
  .proxyReply (EngineOnly.of_dwKept (dwOp8_busOnly slot args s)).wordless (List.cons_ne_nil _ _)

theorem SendsOnce.debugs_word (slot : Fin 16) (s : State) : SendsOnce s (proxyReply16 (dwOp16 slot [] s)) :=
  .proxyReply (EngineOnly.of_dwKept (dwOp16_busOnly slot [] s)).wordless (List.cons_ne_nil _ _)

end SendsOnce

/-! ### Every command -/

/-- Every command of every mode but `SELECT` answers, and sends once. -/
theorem exec_sendsOnce (i : Instr) (s : State) (h : i.context.mode ≠ .select) :
    ∃ t, exec i s = .next t ∧ SendsOnce s t := by
  have hreply {b : Byte} {bs : List Byte} {u : State} (hu : Wordless s u) : SendsOnce s (reply (b :: bs) u) :=
    .reply hu (List.cons_ne_nil b bs)
  have hengine (c : EngineCall) : Wordless s (engineOp c s).2 := engineOp_wordless c s
  cases i with
  | selCcproxy | selShell | selZero | selOther => exact absurd rfl h
  | bbI2c => exact ⟨_, rfl, hreply ((hengine (.i2cInit .clk .mosi)).trans (.of_same rfl rfl))⟩
  | bbOw => exact ⟨_, rfl, hreply ((hengine (.owInit .mosi)).trans (.of_same rfl rfl))⟩
  | bbRaw => exact ⟨_, rfl, hreply ((hengine .rawInit).trans (.of_same rfl rfl))⟩
  | bbShell => exact ⟨_, rfl, .entersShell s⟩
  | bbPindir a o d m c => exact ⟨_, rfl, hreply (execBbPindir_silent a o d m c s).wordless⟩
  | bbPinset p q a o d m c => exact ⟨_, rfl, hreply (execBbPinset_silent a o d m c s).wordless⟩
  | i2cExit | owExit | rawExit => exact ⟨_, rfl, .leaves s⟩
  | i2cStart => exact ⟨_, rfl, hreply (hengine .i2cStart)⟩
  | i2cStop => exact ⟨_, rfl, hreply (hengine .i2cStop)⟩
  | i2cRead => exact ⟨_, rfl, hreply (hengine .i2cReadByte)⟩
  | i2cAck => exact ⟨_, rfl, hreply (hengine (.i2cWriteBit false))⟩
  | i2cNack => exact ⟨_, rfl, hreply (hengine (.i2cWriteBit true))⟩
  | owReset => exact ⟨_, rfl, hreply (hengine (.owReset false))⟩
  | owRead => exact ⟨_, rfl, hreply (hengine .owReadByte)⟩
  | owSearchRom | owSearchAlarm => exact ⟨_, rfl, .searches _ s⟩
  | rawStart => exact ⟨_, rfl, hreply (hengine .rawStart)⟩
  | rawStop => exact ⟨_, rfl, hreply (hengine .rawStop)⟩
  | rawCsLow => exact ⟨_, rfl, hreply (hengine (.rawCs false))⟩
  | rawCsHigh => exact ⟨_, rfl, hreply (hengine (.rawCs true))⟩
  | rawReadByte => exact ⟨_, rfl, hreply (hengine .rawReadByte)⟩
  | rawReadBit => exact ⟨_, rfl, hreply (hengine .rawReadBit)⟩
  | rawPeek => exact ⟨_, rfl, hreply (hengine .rawPeek)⟩
  | rawTick => exact ⟨_, rfl, hreply (hengine .rawTick)⟩
  | rawClkLow => exact ⟨_, rfl, hreply (hengine (.rawClock false))⟩
  | rawClkHigh => exact ⟨_, rfl, hreply (hengine (.rawClock true))⟩
  | rawDatLow => exact ⟨_, rfl, hreply (hengine (.rawData false))⟩
  | rawDatHigh => exact ⟨_, rfl, hreply (hengine (.rawData true))⟩
  | rawSpeed tier => exact ⟨_, rfl, hreply (.of_same rfl rfl)⟩
  | rawConfig w x y z =>
    have hwrite : Wordless s (s.withRaw (rawConfigured s.raw w x y)) := .of_same rfl rfl
    exact ⟨_, rfl, hreply (hwrite.trans (engineOp_wordless .rawApplyConfig _))⟩
  | i2cPeriph | owPeriph | rawPeriph => exact ⟨_, rfl, hreply (periph_silent _ _ s).wordless⟩
  | bbSelftest | bbSelftestLong | i2cWrite | owWrite | rawWrite | ccInstrUpd =>
    exact ⟨_, rfl, .begins (List.cons_ne_nil _ _)⟩
  | ccEnter => exact ⟨_, rfl, .proxyReply (hengine .dwEnter) (List.cons_ne_nil _ _)⟩
  | ccExit => exact ⟨_, rfl, .proxyReply (hengine .dwExit) (List.cons_ne_nil _ _)⟩
  | ccChipId | ccPc => exact ⟨_, rfl, .debugs_word _ s⟩
  | ccStatus | ccStep | ccExec1 | ccExec2 | ccExec3 | ccRdCfg | ccWrCfg | ccChipErase | ccResume | ccHalt =>
    exact ⟨_, rfl, .debugs_byte _ _ s⟩
  | bbReset | bbVersion | bbUnknown | i2cVersion | i2cSpeed | i2cUnknown | owVersion | owUnknown | rawVersion
  | rawUnknown | ccPing | ccBurstWrite | ccInstrVer | ccUnknown => exact ⟨_, rfl, hreply (.refl s)⟩

/-- Settles O10: the one `Send` of `exec_sendsOnce` is accepted, and its events are those of `SendsOnce.events`. -/
theorem everyCommandAnswersOnce : Obligations.EveryCommandAnswersOnce := by
  intro i s hmode hsent
  obtain ⟨t, hexec, honce⟩ := exec_sendsOnce i s hmode
  obtain ⟨es, reply, hevents⟩ := honce.events hsent
  exact ⟨t, es, reply, hexec, hevents⟩

end Sys2Proof.Machine
end

section
/-! SUPPORT. The decoder and the encoder are inverse to each other (spec 30_encoding.md R110-R136). Every test of a map is
a statement about the byte as a number: a fixed byte is one number and a format is a range of numbers. The formats' fields
are read back and put together as numbers too, so that which row of a map a byte takes is linear arithmetic. -/

namespace Sys2Proof

/-! ### Bytes as numbers -/

theorem byte_beq_iff (b v : Byte) : (b == v) = true ↔ b.toNat = v.toNat := by
  rw [beq_iff_eq, BitVec.toNat_inj]

/-- A byte fits a pattern above its `k` low bits just in case it agrees with the pattern once they are cleared. -/
theorem fits_highBits_iff (k : Nat) (pattern b : Byte) :
    fits (BitVec.allOnes 8 <<< k) pattern b = true ↔ b.toNat / 2 ^ k * 2 ^ k = pattern.toNat := by
  have hmask : b &&& (BitVec.allOnes 8 <<< k) = (b >>> k) <<< k := by
    refine BitVec.eq_of_getLsbD_eq fun i hi => ?_
    simp only [BitVec.getLsbD_and, BitVec.getLsbD_shiftLeft, BitVec.getLsbD_ushiftRight, BitVec.getLsbD_allOnes]
    by_cases hk : i < k
    · simp [hk]
    · have hik : k + (i - k) = i := by omega
      have hi8 : i - k < 8 := by omega
      simp [hi, hk, hik, hi8]
  have hlt : b.toNat / 2 ^ k * 2 ^ k < 2 ^ 8 := Nat.lt_of_le_of_lt (Nat.div_mul_le_self _ _) b.isLt
  rw [fits, beq_iff_eq, hmask, ← BitVec.toNat_inj, BitVec.toNat_shiftLeft, BitVec.toNat_ushiftRight,
    Nat.shiftRight_eq_div_pow, Nat.shiftLeft_eq, Nat.mod_eq_of_lt hlt]

theorem fits_80_iff (pattern b : Byte) : fits 0x80#8 pattern b = true ↔ b.toNat / 128 * 128 = pattern.toNat :=
  fits_highBits_iff 7 pattern b

theorem fits_E0_iff (pattern b : Byte) : fits 0xE0#8 pattern b = true ↔ b.toNat / 32 * 32 = pattern.toNat :=
  fits_highBits_iff 5 pattern b

theorem fits_F0_iff (pattern b : Byte) : fits 0xF0#8 pattern b = true ↔ b.toNat / 16 * 16 = pattern.toNat :=
  fits_highBits_iff 4 pattern b

theorem fits_FC_iff (pattern b : Byte) : fits 0xFC#8 pattern b = true ↔ b.toNat / 4 * 4 = pattern.toNat :=
  fits_highBits_iff 2 pattern b

theorem inRanges_nil (b : Byte) : inRanges b [] = true ↔ False := by
  simp [inRanges]

theorem inRanges_cons (b : Byte) (r : Nat × Nat) (ranges : List (Nat × Nat)) :
    inRanges b (r :: ranges) = true ↔ (r.1 ≤ b.toNat ∧ b.toNat ≤ r.2) ∨ inRanges b ranges = true := by
  simp [inRanges]

/-! ### Fields as numbers -/

theorem toNat_append_eq_add {m n : Nat} (v : BitVec m) (w : BitVec n) :
    (v ++ w).toNat = v.toNat * 2 ^ n + w.toNat := by
  rw [BitVec.toNat_append, ← Nat.shiftLeft_add_eq_or_of_lt w.isLt, Nat.shiftLeft_eq]

theorem toNat_fieldBit (b : Byte) (k : Nat) : (fieldBit b k).toNat = b.toNat / 2 ^ k % 2 := by
  rw [fieldBit, BitVec.getLsbD, Nat.testBit_eq_decide_div_mod_eq]
  rcases Nat.mod_two_eq_zero_or_one (b.toNat / 2 ^ k) with h | h <;> simp [h]

theorem fieldBit_eq_iff {b : Byte} {k : Nat} {c : Bool} : fieldBit b k = c ↔ b.toNat / 2 ^ k % 2 = c.toNat := by
  rw [← toNat_fieldBit]
  cases fieldBit b k <;> cases c <;> decide

theorem toNat_bulkField (b : Byte) : (bulkField b).toNat = b.toNat % 16 := by
  simp [bulkField, BitVec.extractLsb'_toNat]

theorem toNat_speedField (b : Byte) : (speedField b).toNat = b.toNat % 4 := by
  simp [speedField, BitVec.extractLsb'_toNat]

/-! ### The formats (R111-R118)

Of each format: its encoding as a number, the row the number stands in and the fields read back from it, and that a byte
that fits the format is the encoding of its fields. -/

theorem toNat_encodeBulk (n : BitVec 4) : (encodeBulk n).toNat = 16 + n.toNat :=
  toNat_append_eq_add 0b0001#4 n

theorem fields_encodeBulk (n : BitVec 4) :
    (encodeBulk n).toNat / 16 = 1 ∧ bulkField (encodeBulk n) = n := by
  simp only [← BitVec.toNat_inj, toNat_bulkField, toNat_encodeBulk]
  omega

theorem encodeBulk_of_fits {b : Byte} (h : fits 0xF0#8 0x10#8 b = true) : encodeBulk (bulkField b) = b := by
  simp only [fits_F0_iff, ← BitVec.toNat_inj, toNat_bulkField, toNat_encodeBulk, BitVec.reduceToNat] at h ⊢
  omega

theorem toNat_encodeSpeed (tier : BitVec 2) : (encodeSpeed tier).toNat = 96 + tier.toNat :=
  toNat_append_eq_add 0b011000#6 tier

theorem fields_encodeSpeed (tier : BitVec 2) :
    (encodeSpeed tier).toNat / 4 = 24 ∧ speedField (encodeSpeed tier) = tier := by
  simp only [← BitVec.toNat_inj, toNat_speedField, toNat_encodeSpeed]
  omega

theorem encodeSpeed_of_fits {b : Byte} (h : fits 0xFC#8 0x60#8 b = true) : encodeSpeed (speedField b) = b := by
  simp only [fits_FC_iff, ← BitVec.toNat_inj, toNat_speedField, toNat_encodeSpeed, BitVec.reduceToNat] at h ⊢
  omega

section FlagFormats

variable (p q a o d m c w x y z : Bool) {b : Byte}

theorem toNat_encodePeriph :
    (encodePeriph w x y z).toNat = 64 + 8 * w.toNat + 4 * x.toNat + 2 * y.toNat + z.toNat := by
  simp only [encodePeriph, toNat_append_eq_add, BitVec.toNat_ofBool, BitVec.reduceToNat]
  omega

theorem toNat_encodeRawcfg :
    (encodeRawcfg w x y z).toNat = 128 + 8 * w.toNat + 4 * x.toNat + 2 * y.toNat + z.toNat := by
  simp only [encodeRawcfg, toNat_append_eq_add, BitVec.toNat_ofBool, BitVec.reduceToNat]
  omega

theorem toNat_encodePindir :
    (encodePindir a o d m c).toNat = 64 + 16 * a.toNat + 8 * o.toNat + 4 * d.toNat + 2 * m.toNat + c.toNat := by
  simp only [encodePindir, toNat_append_eq_add, BitVec.toNat_ofBool, BitVec.reduceToNat]
  omega

theorem toNat_encodePinset :
    (encodePinset p q a o d m c).toNat
      = 128 + 64 * p.toNat + 32 * q.toNat + 16 * a.toNat + 8 * o.toNat + 4 * d.toNat + 2 * m.toNat + c.toNat := by
  simp only [encodePinset, toNat_append_eq_add, BitVec.toNat_ofBool, BitVec.reduceToNat]
  omega

theorem fields_encodePeriph :
    (encodePeriph w x y z).toNat / 16 = 4
      ∧ fieldBit (encodePeriph w x y z) 3 = w ∧ fieldBit (encodePeriph w x y z) 2 = x
      ∧ fieldBit (encodePeriph w x y z) 1 = y ∧ fieldBit (encodePeriph w x y z) 0 = z := by
  have hw := w.toNat_le
  have hx := x.toNat_le
  have hy := y.toNat_le
  have hz := z.toNat_le
  simp only [fieldBit_eq_iff, toNat_encodePeriph]
  omega

theorem fields_encodeRawcfg :
    (encodeRawcfg w x y z).toNat / 16 = 8
      ∧ fieldBit (encodeRawcfg w x y z) 3 = w ∧ fieldBit (encodeRawcfg w x y z) 2 = x
      ∧ fieldBit (encodeRawcfg w x y z) 1 = y ∧ fieldBit (encodeRawcfg w x y z) 0 = z := by
  have hw := w.toNat_le
  have hx := x.toNat_le
  have hy := y.toNat_le
  have hz := z.toNat_le
  simp only [fieldBit_eq_iff, toNat_encodeRawcfg]
  omega

theorem fields_encodePindir :
    (encodePindir a o d m c).toNat / 32 = 2
      ∧ fieldBit (encodePindir a o d m c) 4 = a ∧ fieldBit (encodePindir a o d m c) 3 = o
      ∧ fieldBit (encodePindir a o d m c) 2 = d ∧ fieldBit (encodePindir a o d m c) 1 = m
      ∧ fieldBit (encodePindir a o d m c) 0 = c := by
  have ha := a.toNat_le
  have ho := o.toNat_le
  have hd := d.toNat_le
  have hm := m.toNat_le
  have hc := c.toNat_le
  simp only [fieldBit_eq_iff, toNat_encodePindir]
  omega

theorem fields_encodePinset :
    (encodePinset p q a o d m c).toNat / 128 = 1
      ∧ fieldBit (encodePinset p q a o d m c) 6 = p ∧ fieldBit (encodePinset p q a o d m c) 5 = q
      ∧ fieldBit (encodePinset p q a o d m c) 4 = a ∧ fieldBit (encodePinset p q a o d m c) 3 = o
      ∧ fieldBit (encodePinset p q a o d m c) 2 = d ∧ fieldBit (encodePinset p q a o d m c) 1 = m
      ∧ fieldBit (encodePinset p q a o d m c) 0 = c := by
  have hp := p.toNat_le
  have hq := q.toNat_le
  have ha := a.toNat_le
  have ho := o.toNat_le
  have hd := d.toNat_le
  have hm := m.toNat_le
  have hc := c.toNat_le
  simp only [fieldBit_eq_iff, toNat_encodePinset]
  omega

theorem encodePeriph_of_fits (h : fits 0xF0#8 0x40#8 b = true) :
    encodePeriph (fieldBit b 3) (fieldBit b 2) (fieldBit b 1) (fieldBit b 0) = b := by
  simp only [fits_F0_iff, ← BitVec.toNat_inj, toNat_encodePeriph, toNat_fieldBit, BitVec.reduceToNat] at h ⊢
  omega

theorem encodeRawcfg_of_fits (h : fits 0xF0#8 0x80#8 b = true) :
    encodeRawcfg (fieldBit b 3) (fieldBit b 2) (fieldBit b 1) (fieldBit b 0) = b := by
  simp only [fits_F0_iff, ← BitVec.toNat_inj, toNat_encodeRawcfg, toNat_fieldBit, BitVec.reduceToNat] at h ⊢
  omega

theorem encodePindir_of_fits (h : fits 0xE0#8 0x40#8 b = true) :
    encodePindir (fieldBit b 4) (fieldBit b 3) (fieldBit b 2) (fieldBit b 1) (fieldBit b 0) = b := by
  simp only [fits_E0_iff, ← BitVec.toNat_inj, toNat_encodePindir, toNat_fieldBit, BitVec.reduceToNat] at h ⊢
  omega

theorem encodePinset_of_fits (h : fits 0x80#8 0x80#8 b = true) :
    encodePinset (fieldBit b 6) (fieldBit b 5) (fieldBit b 4) (fieldBit b 3) (fieldBit b 2) (fieldBit b 1)
      (fieldBit b 0) = b := by
  simp only [fits_80_iff, ← BitVec.toNat_inj, toNat_encodePinset, toNat_fieldBit, BitVec.reduceToNat] at h ⊢
  omega

end FlagFormats

/-! ### The rows of the maps (R128-R130, R136): every encoding takes its own row -/

section Rows

variable (p q a o d m c w x y z : Bool) (n : BitVec 4) (tier : BitVec 2) {b : Byte}

theorem decodeBbio_encodePindir : decodeBbio (encodePindir a o d m c) = .bbPindir a o d m c := by
  obtain ⟨hrow, ha, ho, hd, hm, hc⟩ := fields_encodePindir a o d m c
  simp (disch := omega) only [decodeBbio, byte_beq_iff, fits_E0_iff, BitVec.reduceToNat, if_neg, if_pos, ha, ho, hd, hm,
    hc]

theorem decodeBbio_encodePinset : decodeBbio (encodePinset p q a o d m c) = .bbPinset p q a o d m c := by
  obtain ⟨hrow, hp, hq, ha, ho, hd, hm, hc⟩ := fields_encodePinset p q a o d m c
  simp (disch := omega) only [decodeBbio, byte_beq_iff, fits_E0_iff, fits_80_iff, BitVec.reduceToNat, if_neg, if_pos,
    hp, hq, ha, ho, hd, hm, hc]

theorem decodeI2c_encodeBulk : decodeI2c (encodeBulk n) = .i2cWrite n := by
  obtain ⟨hrow, hn⟩ := fields_encodeBulk n
  simp (disch := omega) only [decodeI2c, byte_beq_iff, fits_F0_iff, BitVec.reduceToNat, if_neg, if_pos, hn]

theorem decodeI2c_encodePeriph : decodeI2c (encodePeriph w x y z) = .i2cPeriph w x y z := by
  obtain ⟨hrow, hw, hx, hy, hz⟩ := fields_encodePeriph w x y z
  simp (disch := omega) only [decodeI2c, byte_beq_iff, fits_F0_iff, BitVec.reduceToNat, if_neg, if_pos, hw, hx, hy, hz]

theorem decodeI2c_encodeSpeed : decodeI2c (encodeSpeed tier) = .i2cSpeed tier := by
  obtain ⟨hrow, htier⟩ := fields_encodeSpeed tier
  simp (disch := omega) only [decodeI2c, byte_beq_iff, fits_F0_iff, fits_FC_iff, BitVec.reduceToNat, if_neg, if_pos,
    htier]

theorem decodeOw_encodeBulk : decodeOw (encodeBulk n) = .owWrite n := by
  obtain ⟨hrow, hn⟩ := fields_encodeBulk n
  simp (disch := omega) only [decodeOw, byte_beq_iff, fits_F0_iff, BitVec.reduceToNat, if_neg, if_pos, hn]

theorem decodeOw_encodePeriph : decodeOw (encodePeriph w x y z) = .owPeriph w x y z := by
  obtain ⟨hrow, hw, hx, hy, hz⟩ := fields_encodePeriph w x y z
  simp (disch := omega) only [decodeOw, byte_beq_iff, fits_F0_iff, BitVec.reduceToNat, if_neg, if_pos, hw, hx, hy, hz]

theorem decodeRaw_encodeBulk : decodeRaw (encodeBulk n) = .rawWrite n := by
  obtain ⟨hrow, hn⟩ := fields_encodeBulk n
  simp (disch := omega) only [decodeRaw, byte_beq_iff, fits_F0_iff, BitVec.reduceToNat, if_neg, if_pos, hn]

theorem decodeRaw_encodePeriph : decodeRaw (encodePeriph w x y z) = .rawPeriph w x y z := by
  obtain ⟨hrow, hw, hx, hy, hz⟩ := fields_encodePeriph w x y z
  simp (disch := omega) only [decodeRaw, byte_beq_iff, fits_F0_iff, BitVec.reduceToNat, if_neg, if_pos, hw, hx, hy, hz]

theorem decodeRaw_encodeSpeed : decodeRaw (encodeSpeed tier) = .rawSpeed tier := by
  obtain ⟨hrow, htier⟩ := fields_encodeSpeed tier
  simp (disch := omega) only [decodeRaw, byte_beq_iff, fits_F0_iff, fits_FC_iff, BitVec.reduceToNat, if_neg, if_pos,
    htier]

theorem decodeRaw_encodeRawcfg : decodeRaw (encodeRawcfg w x y z) = .rawConfig w x y z := by
  obtain ⟨hrow, hw, hx, hy, hz⟩ := fields_encodeRawcfg w x y z
  simp (disch := omega) only [decodeRaw, byte_beq_iff, fits_F0_iff, fits_FC_iff, BitVec.reduceToNat, if_neg, if_pos,
    hw, hx, hy, hz]

/-! A byte in none of the listed ranges takes the last row. -/

theorem decodeBbio_of_unlisted (h : bbUnlisted b = true) : decodeBbio b = .bbUnknown b := by
  simp only [bbUnlisted, inRanges_cons, inRanges_nil, or_false] at h
  simp (disch := omega) only [decodeBbio, byte_beq_iff, fits_E0_iff, fits_80_iff, BitVec.reduceToNat, if_neg]

theorem decodeI2c_of_unlisted (h : i2cUnlisted b = true) : decodeI2c b = .i2cUnknown b := by
  simp only [i2cUnlisted, inRanges_cons, inRanges_nil, or_false] at h
  simp (disch := omega) only [decodeI2c, byte_beq_iff, fits_F0_iff, fits_FC_iff, BitVec.reduceToNat, if_neg]

theorem decodeOw_of_unlisted (h : owUnlisted b = true) : decodeOw b = .owUnknown b := by
  simp only [owUnlisted, inRanges_cons, inRanges_nil, or_false] at h
  simp (disch := omega) only [decodeOw, byte_beq_iff, fits_F0_iff, BitVec.reduceToNat, if_neg]

theorem decodeRaw_of_unlisted (h : rawUnlisted b = true) : decodeRaw b = .rawUnknown b := by
  simp only [rawUnlisted, inRanges_cons, inRanges_nil, or_false] at h
  simp (disch := omega) only [decodeRaw, byte_beq_iff, fits_F0_iff, fits_FC_iff, BitVec.reduceToNat, if_neg]

theorem decodeFrame_of_unlisted {op : Byte} (a0 a1 a2 : Byte) (h : ccUnlisted op = true) :
    decodeFrame op a0 a1 a2 = .ccUnknown op a0 a1 a2 := by
  simp only [ccUnlisted, inRanges_cons, inRanges_nil, or_false] at h
  simp (disch := omega) only [decodeFrame, byte_beq_iff, BitVec.reduceToNat, if_neg]

theorem decodeSelect_of_nonzero (h : (b != 0x00#8) = true) : decodeSelect false b = .selOther b := by
  simp only [decodeSelect, Bool.false_and, Bool.false_eq_true, if_false, beq_iff_eq, if_neg (bne_iff_ne.mp h)]

end Rows

/-- Settles O1: a command without fields is its row by evaluation, one with fields has its row above. -/
theorem decodeOfEncodeIsTheInstruction : Obligations.DecodeOfEncodeIsTheInstruction := by
  intro i rest hwf
  have hrow {j : Instr} (h : j = i) : Except.ok (ε := DecodeError) (j, rest) = .ok (i, rest) := by rw [h]
  cases i with
  | selOther b => exact hrow (decodeSelect_of_nonzero hwf)
  | bbPindir a o d m c => exact hrow (decodeBbio_encodePindir a o d m c)
  | bbPinset p q a o d m c => exact hrow (decodeBbio_encodePinset p q a o d m c)
  | bbUnknown op => exact hrow (decodeBbio_of_unlisted hwf)
  | i2cWrite n => exact hrow (decodeI2c_encodeBulk n)
  | i2cPeriph w x y z => exact hrow (decodeI2c_encodePeriph w x y z)
  | i2cSpeed tier => exact hrow (decodeI2c_encodeSpeed tier)
  | i2cUnknown op => exact hrow (decodeI2c_of_unlisted hwf)
  | owWrite n => exact hrow (decodeOw_encodeBulk n)
  | owPeriph w x y z => exact hrow (decodeOw_encodePeriph w x y z)
  | owUnknown op => exact hrow (decodeOw_of_unlisted hwf)
  | rawWrite n => exact hrow (decodeRaw_encodeBulk n)
  | rawPeriph w x y z => exact hrow (decodeRaw_encodePeriph w x y z)
  | rawSpeed tier => exact hrow (decodeRaw_encodeSpeed tier)
  | rawConfig w x y z => exact hrow (decodeRaw_encodeRawcfg w x y z)
  | rawUnknown op => exact hrow (decodeRaw_of_unlisted hwf)
  | ccUnknown op a0 a1 a2 => exact hrow (decodeFrame_of_unlisted a0 a1 a2 hwf)
  | _ => rfl

/-! ### What is decoded -/

/-- `i` is what the bytes say: they are its encoding, and it is well formed. -/
def Instr.SaidBy (i : Instr) (bytes : List Byte) : Prop := encode i = bytes ∧ i.wellFormed = true

section SaidBy

variable {i j : Instr} {b v mask pattern : Byte} {args : List Byte}

/-- A row of a map for one fixed byte. -/
theorem Instr.SaidBy.fixed (hencode : encode i = v :: args) (hwf : i.wellFormed = true)
    (hrest : b.toNat ≠ v.toNat → j.SaidBy (b :: args)) : (if b == v then i else j).SaidBy (b :: args) := by
  split
  · next h => exact ⟨by rw [hencode, beq_iff_eq.mp h], hwf⟩
  · next h => exact hrest (mt (byte_beq_iff b v).mpr h)

/-- A row of a map for a format with fields. -/
theorem Instr.SaidBy.format (hencode : fits mask pattern b = true → encode i = [b]) (hwf : i.wellFormed = true)
    (hrest : ¬ fits mask pattern b = true → j.SaidBy [b]) : (if fits mask pattern b then i else j).SaidBy [b] := by
  split
  · next h => exact ⟨hencode h, hwf⟩
  · next h => exact hrest h

theorem decodeSelect_saidBy (leading : Bool) (b : Byte) : (decodeSelect leading b).SaidBy [b] := by
  unfold decodeSelect
  split_ifs with hproxy hshell hzero
  · exact ⟨by rw [beq_iff_eq.mp (Bool.and_eq_true_iff.mp hproxy).2]; rfl, rfl⟩
  · exact ⟨by rw [beq_iff_eq.mp (Bool.and_eq_true_iff.mp hshell).2]; rfl, rfl⟩
  · exact ⟨by rw [beq_iff_eq.mp hzero]; rfl, rfl⟩
  · exact ⟨rfl, by simpa [Instr.wellFormed] using hzero⟩

theorem decodeBbio_saidBy (b : Byte) : (decodeBbio b).SaidBy [b] := by
  refine .fixed rfl rfl fun _ => .fixed rfl rfl fun _ => .fixed rfl rfl fun _ => .fixed rfl rfl fun _ =>
    .fixed rfl rfl fun _ => .fixed rfl rfl fun _ => .fixed rfl rfl fun _ => .fixed rfl rfl fun _ =>
    .format (fun h => congrArg ([·]) (encodePindir_of_fits h)) rfl fun hdir =>
    .format (fun h => congrArg ([·]) (encodePinset_of_fits h)) rfl fun hset => ⟨rfl, ?_⟩
  simp only [fits_E0_iff, fits_80_iff, BitVec.reduceToNat, ne_eq] at *
  simp only [Instr.wellFormed, bbUnlisted, inRanges_cons, inRanges_nil]
  omega

theorem decodeI2c_saidBy (b : Byte) : (decodeI2c b).SaidBy [b] := by
  refine .fixed rfl rfl fun _ => .fixed rfl rfl fun _ => .fixed rfl rfl fun _ => .fixed rfl rfl fun _ =>
    .fixed rfl rfl fun _ => .fixed rfl rfl fun _ => .fixed rfl rfl fun _ =>
    .format (fun h => congrArg ([·]) (encodeBulk_of_fits h)) rfl fun hwrite =>
    .format (fun h => congrArg ([·]) (encodePeriph_of_fits h)) rfl fun hperiph =>
    .format (fun h => congrArg ([·]) (encodeSpeed_of_fits h)) rfl fun hspeed => ⟨rfl, ?_⟩
  simp only [fits_F0_iff, fits_FC_iff, BitVec.reduceToNat, ne_eq] at *
  simp only [Instr.wellFormed, i2cUnlisted, inRanges_cons, inRanges_nil]
  omega

theorem decodeOw_saidBy (b : Byte) : (decodeOw b).SaidBy [b] := by
  refine .fixed rfl rfl fun _ => .fixed rfl rfl fun _ => .fixed rfl rfl fun _ => .fixed rfl rfl fun _ =>
    .fixed rfl rfl fun _ => .fixed rfl rfl fun _ =>
    .format (fun h => congrArg ([·]) (encodeBulk_of_fits h)) rfl fun hwrite =>
    .format (fun h => congrArg ([·]) (encodePeriph_of_fits h)) rfl fun hperiph => ⟨rfl, ?_⟩
  simp only [fits_F0_iff, BitVec.reduceToNat, ne_eq] at *
  simp only [Instr.wellFormed, owUnlisted, inRanges_cons, inRanges_nil]
  omega

theorem decodeRaw_saidBy (b : Byte) : (decodeRaw b).SaidBy [b] := by
  refine .fixed rfl rfl fun _ => .fixed rfl rfl fun _ => .fixed rfl rfl fun _ => .fixed rfl rfl fun _ =>
    .fixed rfl rfl fun _ => .fixed rfl rfl fun _ => .fixed rfl rfl fun _ => .fixed rfl rfl fun _ =>
    .fixed rfl rfl fun _ => .fixed rfl rfl fun _ => .fixed rfl rfl fun _ => .fixed rfl rfl fun _ =>
    .fixed rfl rfl fun _ => .fixed rfl rfl fun _ =>
    .format (fun h => congrArg ([·]) (encodeBulk_of_fits h)) rfl fun hwrite =>
    .format (fun h => congrArg ([·]) (encodePeriph_of_fits h)) rfl fun hperiph =>
    .format (fun h => congrArg ([·]) (encodeSpeed_of_fits h)) rfl fun hspeed =>
    .format (fun h => congrArg ([·]) (encodeRawcfg_of_fits h)) rfl fun hconfig => ⟨rfl, ?_⟩
  simp only [fits_F0_iff, fits_FC_iff, BitVec.reduceToNat, ne_eq] at *
  simp only [Instr.wellFormed, rawUnlisted, inRanges_cons, inRanges_nil]
  omega

theorem decodeFrame_saidBy (op a0 a1 a2 : Byte) : (decodeFrame op a0 a1 a2).SaidBy [op, a0, a1, a2] := by
  refine .fixed rfl rfl fun _ => .fixed rfl rfl fun _ => .fixed rfl rfl fun _ => .fixed rfl rfl fun _ =>
    .fixed rfl rfl fun _ => .fixed rfl rfl fun _ => .fixed rfl rfl fun _ => .fixed rfl rfl fun _ =>
    .fixed rfl rfl fun _ => .fixed rfl rfl fun _ => .fixed rfl rfl fun _ => .fixed rfl rfl fun _ =>
    .fixed rfl rfl fun _ => .fixed rfl rfl fun _ => .fixed rfl rfl fun _ => .fixed rfl rfl fun _ =>
    .fixed rfl rfl fun _ => .fixed rfl rfl fun _ => ⟨rfl, ?_⟩
  simp only [BitVec.reduceToNat, ne_eq] at *
  simp only [Instr.wellFormed, ccUnlisted, inRanges_cons, inRanges_nil]
  omega

end SaidBy

/-- A command that its bytes say, of a context that the decoder was asked in, meets what is asked of a decoded one. -/
theorem Instr.SaidBy.decoded {i : Instr} {word : List Byte} {m : Mode} {l leading : Bool} (h : i.SaidBy word)
    (hcontext : i.context = ⟨m, l⟩) (hleading : l = true → leading = true) (rest : List Byte) :
    word ++ rest = encode i ++ rest ∧ i.wellFormed = true ∧ i.context.mode = m
      ∧ (i.context.leading = true → leading = true) := by
  obtain ⟨hencode, hwf⟩ := h
  rw [hencode, hcontext]
  exact ⟨rfl, hwf, rfl, hleading⟩

/-- Settles O2: in each mode the command is its map's answer for the first byte, or for the frame, which says it. -/
theorem encodeOfDecodeIsTheBytes : Obligations.EncodeOfDecodeIsTheBytes := by
  rintro ⟨m, leading⟩ bytes rest i h
  match m, bytes with
  | .select, b :: tail =>
    cases h
    obtain ⟨l, hcontext, hleading⟩ := Machine.decodeSelect_context leading b
    exact (decodeSelect_saidBy leading b).decoded hcontext hleading rest
  | .bbio, b :: tail => cases h; exact (decodeBbio_saidBy b).decoded (Machine.decodeBbio_context b) nofun rest
  | .i2c, b :: tail => cases h; exact (decodeI2c_saidBy b).decoded (Machine.decodeI2c_context b) nofun rest
  | .ow, b :: tail => cases h; exact (decodeOw_saidBy b).decoded (Machine.decodeOw_context b) nofun rest
  | .raw, b :: tail => cases h; exact (decodeRaw_saidBy b).decoded (Machine.decodeRaw_context b) nofun rest
  | .ccproxy, op :: a0 :: a1 :: a2 :: tail =>
    cases h
    exact (decodeFrame_saidBy op a0 a1 a2).decoded (Machine.decodeFrame_context op a0 a1 a2) nofun rest
  | .select, [] | .bbio, [] | .i2c, [] | .ow, [] | .raw, [] => cases h
  | .ccproxy, [] | .ccproxy, [_] | .ccproxy, [_, _] | .ccproxy, [_, _, _] => cases h
  | .shell, _ => cases h

/-- Settles O3: the map of the mode answers for every byte, and the frame map for every four. -/
theorem everyByteDecodesInItsMode : Obligations.EveryByteDecodesInItsMode := by
  refine ⟨fun ⟨m, leading⟩ b rest hproxy hshell => ?_, fun _ op a0 a1 a2 _ => ⟨decodeFrame op a0 a1 a2, rfl⟩⟩
  cases m with
  | select => exact ⟨decodeSelect leading b, rfl⟩
  | bbio => exact ⟨decodeBbio b, rfl⟩
  | i2c => exact ⟨decodeI2c b, rfl⟩
  | ow => exact ⟨decodeOw b, rfl⟩
  | raw => exact ⟨decodeRaw b, rfl⟩
  | ccproxy => exact absurd rfl hproxy
  | shell => exact absurd rfl hshell

/-- Settles O4: eight evaluations of the decoder. -/
theorem wordsFromTheMapsDecode : Obligations.WordsFromTheMapsDecode :=
  ⟨rfl, rfl, rfl, rfl, rfl, rfl, rfl, rfl⟩

end Sys2Proof
end

section
/-! SUPPORT. The pin commands of BBIO (spec 44_bbio_framer.md R407, R408), the beginning of a send-bytes command (R412)
and the settings of the raw session (42_rawwire.md R296, R297). `BB.PINDIR` draws nothing because each of its `GetDir`s
asks for a pin it has just given a direction. -/

namespace Sys2Proof.Machine

/-! ### The opcode's pin bits (R125) and the replies' -/

theorem getLsbD_pinBits (a o d m c : Bool) :
    (pinBits a o d m c).getLsbD 4 = a ∧ (pinBits a o d m c).getLsbD 3 = o ∧ (pinBits a o d m c).getLsbD 2 = d
      ∧ (pinBits a o d m c).getLsbD 1 = m ∧ (pinBits a o d m c).getLsbD 0 = c := by
  decide +revert

/-- The loop over the five pins sets the bits of the reply that say an input. -/
theorem setInputBits_eq (a o d m c : Bool) :
    [(a, 4), (o, 3), (d, 2), (m, 1), (c, 0)].foldl (fun r x => if x.1 then setByteBit r x.2 true else r) 0x40#8
      = encodePindir a o d m c := by
  decide +revert

/-- The loop over the five pins writes the bits of the reply. -/
theorem setLevelBits_eq (a o d m c : Bool) :
    [(a, 4), (o, 3), (d, 2), (m, 1), (c, 0)].foldl (fun r x => setByteBit r x.2 x.1) 0x80#8
      = 0b100#3 ++ BitVec.ofBool a ++ BitVec.ofBool o ++ BitVec.ofBool d ++ BitVec.ofBool m ++ BitVec.ofBool c := by
  decide +revert

/-! ### Directions set and read back (R59, R407) -/

/-- The event that makes a pin an input or a push-pull output. -/
def directEvent (p : PinId) (input : Bool) : Event := if input then .setInput p else .setOutput p false

theorem exec_bbPindir (a o d m c : Bool) (s : State) :
    exec (.bbPindir a o d m c) s
      = .next (reply [(readDirs bbioPins 0x40#8 (emit (pinDirEvents (pinBits a o d m c) bbioPins) s)).1]
          (readDirs bbioPins 0x40#8 (emit (pinDirEvents (pinBits a o d m c) bbioPins) s)).2) := rfl

theorem lookupPin_direct_same (p : PinId) (input : Bool) (tracked : List (PinId × PinSetting)) :
    (lookupPin p (pinEffect tracked (directEvent p input))).input = some input := by
  cases input with
  | true =>
    obtain ⟨c, hc⟩ := lookupPin_updatePin_some p (fun c => { c with input := some true }) tracked
    exact congrArg PinSetting.input hc
  | false =>
    obtain ⟨c, hc⟩ :=
      lookupPin_updatePin_some p (fun c => { c with input := some false, openDrain := some false }) tracked
    exact congrArg PinSetting.input hc

theorem lookupPin_direct_other {p q : PinId} (h : q ≠ p) (input : Bool) (tracked : List (PinId × PinSetting)) :
    lookupPin q (pinEffect tracked (directEvent p input)) = lookupPin q tracked := by
  cases input with
  | true => exact lookupPin_updatePin_other h _ tracked
  | false => exact lookupPin_updatePin_other h _ tracked

theorem lookupPin_pinDirEvents_other (op : Byte) {p : PinId} (pins : List (PinId × Nat)) :
    ∀ tracked : List (PinId × PinSetting), p ∉ pins.map Prod.fst →
      lookupPin p (pinEffects tracked (pinDirEvents op pins)) = lookupPin p tracked := by
  induction pins with
  | nil => exact fun _ _ => rfl
  | cons pk pins ih =>
    intro tracked hp
    obtain ⟨hne, hrest⟩ := not_or.mp (mt List.mem_cons.mpr hp)
    exact (ih _ hrest).trans (lookupPin_direct_other hne _ tracked)

/-- Each of some distinct pins has the direction its bit says once all have been given theirs. -/
theorem lookupPin_pinDirEvents (op : Byte) (pins : List (PinId × Nat)) :
    ∀ tracked : List (PinId × PinSetting), (pins.map Prod.fst).Nodup → ∀ pk ∈ pins,
      (lookupPin pk.1 (pinEffects tracked (pinDirEvents op pins))).input = some (op.getLsbD pk.2) := by
  induction pins with
  | nil => exact fun _ _ _ h => absurd h List.not_mem_nil
  | cons qk pins ih =>
    intro tracked hnodup pk hmem
    obtain ⟨hfresh, hrest⟩ := List.nodup_cons.mp hnodup
    rcases List.mem_cons.mp hmem with rfl | hmem
    · exact (congrArg PinSetting.input (lookupPin_pinDirEvents_other op pins _ hfresh)).trans
        (lookupPin_direct_same pk.1 _ tracked)
    · exact ih _ hrest pk hmem

/-- Reading pins whose directions are known draws nothing. -/
theorem readDirs_known (dir : PinId × Nat → Bool) (pins : List (PinId × Nat)) :
    ∀ (r : Byte) (s : State), (∀ pk ∈ pins, (lookupPin pk.1 s.env.pins).input = some (dir pk)) →
      readDirs pins r s =
        (pins.foldl (fun r pk => if dir pk then setByteBit r pk.2 true else r) r,
          s.after (pins.map fun pk => .getDir pk.1 (dir pk)) 0) := by
  induction pins with
  | nil => exact fun _ _ _ => rfl
  | cons pk pins ih =>
    intro r s hknown
    obtain ⟨hpk, hrest⟩ := List.forall_mem_cons.mp hknown
    simp only [readDirs, getDir_known hpk]
    rw [ih _ (s.after [.getDir pk.1 (dir pk)] 0) hrest, State.after_after]
    rfl

/-- The five pins are distinct, so each `GetDir` answers the direction just set. -/
theorem readDirs_after_pinDirEvents (a o d m c : Bool) (s : State) :
    readDirs bbioPins 0x40#8 (emit (pinDirEvents (pinBits a o d m c) bbioPins) s) =
      (encodePindir a o d m c,
        s.after
          [directEvent .aux a, directEvent .mosi o, directEvent .clk d, directEvent .miso m, directEvent .cs c,
            .getDir .aux a, .getDir .mosi o, .getDir .clk d, .getDir .miso m, .getDir .cs c] 0) := by
  obtain ⟨ha, ho, hd, hm, hc⟩ := getLsbD_pinBits a o d m c
  have hset : pinDirEvents (pinBits a o d m c) bbioPins
      = [directEvent .aux a, directEvent .mosi o, directEvent .clk d, directEvent .miso m, directEvent .cs c] := by
    simp only [pinDirEvents, bbioPins, List.map, directEvent, ha, ho, hd, hm, hc]
  have hknown := lookupPin_pinDirEvents (pinBits a o d m c) bbioPins s.env.pins (by decide)
  rw [readDirs_known (fun pk => (pinBits a o d m c).getLsbD pk.2) _ _ _ hknown, hset, emit_eq_after, State.after_after,
    ← setInputBits_eq]
  simp only [bbioPins, List.map, List.foldl, ha, ho, hd, hm, hc]
  rfl

/-- Settles O17: the directions set and read back, and then the reply. -/
theorem pinDirectionsAreSetAndReadBack : Obligations.PinDirectionsAreSetAndReadBack := by
  intro s a o d m c direct
  refine answers_of_reply ?_ rfl
  rw [exec_bbPindir, readDirs_after_pinDirEvents]
  rfl

/-! ### Latches set and lines sampled (R408) -/

theorem readLevels_bbioPins (r : Byte) (s : State) :
    readLevels bbioPins r s =
      ([(s.level 0, 4), (s.level 1, 3), (s.level 2, 2), (s.level 3, 1), (s.level 4, 0)].foldl
          (fun r x => setByteBit r x.2 x.1) r,
        s.after [.get .aux (s.level 0), .get .mosi (s.level 1), .get .clk (s.level 2), .get .miso (s.level 3),
          .get .cs (s.level 4)] 5) := by
  simp [bbioPins, readLevels, getLevel_eq]

theorem exec_bbPinset (p q a o d m c : Bool) (s : State) :
    exec (.bbPinset p q a o d m c) s
      = .next (reply [(readLevels bbioPins 0x80#8 (emit (pinSetEvents (pinBits a o d m c) bbioPins) s)).1]
          (readLevels bbioPins 0x80#8 (emit (pinSetEvents (pinBits a o d m c) bbioPins) s)).2) := rfl

/-- Settles O18: five samples after the five writes, which draw nothing. -/
theorem pinLevelsAreSetAndSampled : Obligations.PinLevelsAreSetAndSampled := by
  intro s p q a o d m c
  obtain ⟨ha, ho, hd, hm, hc⟩ := getLsbD_pinBits a o d m c
  have hset : pinSetEvents (pinBits a o d m c) bbioPins
      = [.set .aux a, .set .mosi o, .set .clk d, .set .miso m, .set .cs c] := by
    simp only [pinSetEvents, bbioPins, List.map, ha, ho, hd, hm, hc]
  refine answers_of_reply ?_ rfl
  rw [exec_bbPinset, hset, readLevels_bbioPins, setLevelBits_eq]
  simp only [emit_eq_after, State.after_after, State.level_after, Nat.zero_add]
  rfl

/-! ### Send-bytes commands and the raw session's settings -/

/-- Settles O22: each of the three begins with its ok byte (R412). -/
theorem bulkWritesAcknowledgeFirst : Obligations.BulkWritesAcknowledgeFirst := fun _ _ =>
  ⟨answers_of_sendThen rfl rfl, answers_of_sendThen rfl rfl, answers_of_sendThen rfl rfl⟩

/-- The events of `raw.apply_config()` (R261) with the fields of a `RAWCFG` byte. -/
theorem rawConfigEvents_rawConfigured (r : RawSession) (w x y : Bool) :
    rawConfigEvents (rawConfigured r w x y)
      = [.setOutput .clk (!w), .set .clk false, .setOutput .cs (!w), .set .cs true, .setOutput .mosi (!w),
          .set .mosi false] ++ if x then [.setInput .miso] else [] := by
  cases w <;> cases x <;> rfl

theorem exec_rawConfig (w x y z : Bool) (s : State) :
    exec (.rawConfig w x y z) s = .next (reply okByte (rawApplyConfig (s.withRaw (rawConfigured s.raw w x y)))) := rfl

/-- Settles O40: the four tiers are R122's table, and a configuration is its fields and then `rawConfigEvents`. -/
theorem rawSpeedAndConfig : Obligations.RawSpeedAndConfig := by
  intro s w x y z
  refine ⟨answers_of_reply rfl rfl, answers_of_reply rfl rfl, answers_of_reply rfl rfl, answers_of_reply rfl rfl,
    answers_of_reply ?_ rfl⟩
  rw [exec_rawConfig, rawApplyConfig, State.withRaw_raw, rawConfigEvents_rawConfigured]
  rfl

end Sys2Proof.Machine
end

section
/-! SUPPORT. The mode changes of BBIO (spec 44_bbio_framer.md R401-R404) and the I2C engine in full (40_i2c.md R150-R158):
its bytes follow from its bits by `readBits_eq` and `writeBits_eq`, and the commands and the payload byte are those bytes
and a reply. -/

namespace Sys2Proof.Machine

/-! ### The mode changes (R401-R404) -/

theorem i2cInit_eq (clock data : PinId) (s : State) :
    i2cInit clock data s = (s.withI2c { scl := clock, sda := data }).after
      [.setOutput clock true, .setOutput data true, .set clock true, .set data true] 0 := rfl

theorem owInit_eq (p : PinId) (s : State) :
    owInit p s = (s.withOw { s.ow with pin := p }).after [.setOutput p true, .set p true] 0 := rfl

/-- The defaults of `raw.init` are 2-wire and open-drain, so DATA-IN is not configured (R261). -/
theorem rawInit_eq (s : State) :
    rawInit s = (s.withRaw rawDefaults).after
      [.setOutput .clk true, .set .clk false, .setOutput .cs true, .set .cs true,
        .setOutput .mosi true, .set .mosi false] 0 := rfl

theorem exec_bbI2c (s : State) : exec .bbI2c s = .next (reply i2cName ((i2cInit .clk .mosi s).withMode .i2c)) := rfl

theorem exec_bbOw (s : State) : exec .bbOw s = .next (reply owName ((owInit .mosi s).withMode .ow)) := rfl

theorem exec_bbRaw (s : State) : exec .bbRaw s = .next (reply rawName ((rawInit s).withMode .raw)) := rfl

/-- Settles O15: three commands are an engine's init and then the announcement, the fourth is its reply and then the exit
to the shell. -/
theorem bbioModeChanges : Obligations.BbioModeChanges := by
  intro s
  refine ⟨answers_of_reply ?_ rfl, answers_of_reply ?_ rfl, answers_of_reply ?_ rfl, answers_of_sendThen rfl rfl⟩
  · rw [exec_bbI2c, i2cInit_eq]
    rfl
  · rw [exec_bbOw, owInit_eq]
    rfl
  · rw [exec_bbRaw, rawInit_eq]
    rfl

/-! ### Conditions and acknowledge bits (R152-R154) -/

theorem i2cStart_eq (s : State) :
    i2cStart s = s.after
      [.set s.i2c.sda true, .delay 5, .set s.i2c.scl true, .delay 5,
        .guardBegin, .set s.i2c.sda false, .delay 5, .set s.i2c.scl false, .guardEnd, .delay 5] 0 := rfl

theorem i2cStop_eq (s : State) :
    i2cStop s = s.after
      [.set s.i2c.sda false, .delay 5,
        .guardBegin, .set s.i2c.scl true, .delay 5, .set s.i2c.sda true, .guardEnd, .delay 5] 0 := rfl

theorem exec_i2cStart (s : State) : exec .i2cStart s = .next (reply okByte (i2cStart s)) := rfl

theorem exec_i2cStop (s : State) : exec .i2cStop s = .next (reply okByte (i2cStop s)) := rfl

theorem exec_i2cAck (s : State) : exec .i2cAck s = .next (reply okByte (i2cWriteBit false s)) := rfl

theorem exec_i2cNack (s : State) : exec .i2cNack s = .next (reply okByte (i2cWriteBit true s)) := rfl

/-- Settles O24: each command is its engine operation and the ok byte; the speed command is the ok byte alone. -/
theorem i2cConditionsAndAcknowledgeBits : Obligations.I2cConditionsAndAcknowledgeBits := by
  intro s tier
  refine ⟨answers_of_reply ?_ rfl, answers_of_reply ?_ rfl, answers_of_reply ?_ rfl, answers_of_reply ?_ rfl,
    answers_of_reply rfl rfl⟩
  · rw [exec_i2cStart, i2cStart_eq, okByte]
  · rw [exec_i2cStop, i2cStop_eq, okByte]
  · rw [exec_i2cAck, i2cWriteBit_eq, okByte, i2cBitOut]
  · rw [exec_i2cNack, i2cWriteBit_eq, okByte, i2cBitOut]

/-! ### Bytes (R156, R157) -/

theorem i2cReadByte_eq (s : State) :
    i2cReadByte s = (byteOf fun j => s.level (7 - j),
      s.after ((List.range 8).flatMap fun k => i2cBitIn s.i2c (s.level k)) 8) := by
  rw [← setByteBits_msbOrder s.level]
  exact readBits_eq (P := fun t => t.i2c = s.i2c) (evs := i2cBitIn s.i2c)
    (fun t ht => by rw [i2cReadBit_eq, ht, i2cBitIn]) (fun _ _ _ h => h) msbOrder 0#8 s rfl

/-- The acknowledge bit is the only draw of a written byte. -/
theorem i2cWriteByte_eq (v : Byte) (s : State) :
    i2cWriteByte v s = (s.level 0,
      s.after ((msbFirst.flatMap fun j => i2cBitOut s.i2c (v.getLsbD j)) ++ i2cBitIn s.i2c (s.level 0)) 1) := by
  have hbits : writeBits i2cWriteBit v msbOrder s
      = s.after (msbFirst.flatMap fun j => i2cBitOut s.i2c (v.getLsbD j)) 0 :=
    writeBits_eq (P := fun t => t.i2c = s.i2c) (evs := i2cBitOut s.i2c) v
      (fun b t ht => by rw [i2cWriteBit_eq, ht, i2cBitOut]) (fun _ _ _ h => h) msbOrder s rfl
  rw [i2cWriteByte, hbits, i2cReadBit_eq, State.after_after, State.level_after, State.after_i2c, i2cBitIn]

theorem exec_i2cRead (s : State) : exec .i2cRead s = .next (reply [(i2cReadByte s).1] (i2cReadByte s).2) := rfl

/-- Settles O25: the eight slots of `i2cReadByte_eq`, and then the reply. -/
theorem i2cReadShiftsMsbFirst : Obligations.I2cReadShiftsMsbFirst := by
  intro s
  refine answers_of_reply ?_ (State.after_sendResult s _ 8)
  rw [exec_i2cRead, i2cReadByte_eq]

/-! ### One payload byte of `I2C.WRITE` (R172) -/

/-- A payload byte of any send-bytes command, with the two outcomes of its `Send`. -/
theorem step_of_bulk_outcomes {s : State} {m : BulkMode} {k : Nat} {b : Byte} {rest : List Byte}
    (hmode : s.mode = m.mode) (hlisting : s.listing = false) (hpending : s.pending = .bulk m (k + 1)) (hk : k < 16)
    (hbytes : s.inbuf = b :: rest) {t : State} {answer : Byte} (hunit : bulkUnit m b (s.withInbuf rest) = (answer, t)) :
    (s.env.sendResult = .sent → step s = .next ((t.sending [answer] .sent).withPending (bulkLeft m k)))
    ∧ (s.env.sendResult ≠ .sent →
        step s = .next (transportFault (t.sending [answer] s.env.sendResult))) := by
  have hstep : step s = .next (sendThen [answer] (·.withPending (bulkLeft m k)) t) := by
    rw [step_of_bulk hmode hlisting hpending hk hbytes, bulkByte, hunit]
    rfl
  have hresult : t.env.sendResult = s.env.sendResult := by
    have htx : t.env.tx = s.env.tx := by
      simpa [hunit] using (bulkUnit_busOnly m b (s.withInbuf rest)).tx
    rw [Env.sendResult, htx, Env.sendResult]
  rw [hstep]
  refine ⟨fun hsent => ?_, fun hfailed => ?_⟩
  · rw [sendThen_sent (hresult.trans hsent)]
  · rw [sendThen_failed (hresult ▸ hfailed), hresult]

/-- The unit of `I2C.WRITE` is the byte written, and its answer the sampled acknowledge bit. -/
theorem bulkUnit_i2c (b : Byte) (s : State) :
    bulkUnit .i2c b s = (bitByte (s.level 0),
      s.after ((msbFirst.flatMap fun j => i2cBitOut s.i2c (b.getLsbD j)) ++ i2cBitIn s.i2c (s.level 0)) 1) := by
  rw [bulkUnit, i2cWriteByte_eq]

/-- Settles O26: the payload byte's unit in full (`bulkUnit_i2c`), with the two outcomes of its `Send`. -/
theorem i2cPayloadByteIsWrittenAndAnswered : Obligations.I2cPayloadByteIsWrittenAndAnswered := by
  intro s k b rest hmode hlisting hpending hk hbytes
  exact step_of_bulk_outcomes (m := .i2c) hmode hlisting hpending hk hbytes (bulkUnit_i2c b (s.withInbuf rest))

/-! ### The pull-up check (R158) -/

/-- Settles O27: the lines are released first, and then each `Get` is the next draw (`getLevel_eq`), SCL's before SDA's. -/
theorem pullupsCheckSamplesBothLines : Obligations.PullupsCheckSamplesBothLines := by
  intro s
  simp only [i2cPullupsOk, getLevel_eq, emit_eq_after, State.after_after, State.level_after]
  rfl

end Sys2Proof.Machine
end

section
/-! SUPPORT. The CRC-8 (spec 41_onewire.md R208, R209): a byte is consumed by eight shifts of its xor with the register, so
the CRC of one byte is a linear function, and every CRC is that function of the xor of the CRC before with the last byte. -/

namespace Sys2Proof.Machine

/-- One bit of the CRC loop on the xor of the register and the byte: a shift, and the polynomial where a 1 falls out. -/
def crcShift (v : Byte) : Byte := if v.getLsbD 0 then v >>> 1 ^^^ 0x8C#8 else v >>> 1

theorem crcShift_xor (v w : Byte) : crcShift (v ^^^ w) = crcShift v ^^^ crcShift w := by
  have hboth : (v >>> 1 ^^^ 0x8C#8) ^^^ (w >>> 1 ^^^ 0x8C#8) = v >>> 1 ^^^ w >>> 1 := by
    calc (v >>> 1 ^^^ 0x8C#8) ^^^ (w >>> 1 ^^^ 0x8C#8)
        = v >>> 1 ^^^ w >>> 1 ^^^ (0x8C#8 ^^^ 0x8C#8) := by ac_rfl
      _ = v >>> 1 ^^^ w >>> 1 := by rw [BitVec.xor_self, BitVec.xor_zero]
  rw [crcShift, crcShift, crcShift, BitVec.getLsbD_xor, BitVec.ushiftRight_xor_distrib]
  cases v.getLsbD 0 <;> cases w.getLsbD 0
  case true.true => exact hboth.symm
  all_goals simp only [Bool.xor_false, Bool.xor_true, Bool.not_false, Bool.false_eq_true, if_true, if_false]
  all_goals ac_rfl

/-- The loop's register and byte, folded into their xor, are shifted by `crcShift`. -/
theorem crcBit_xor (cb : Byte × Byte) : (crcBit cb).1 ^^^ (crcBit cb).2 = crcShift (cb.1 ^^^ cb.2) := by
  rw [crcBit, crcShift, BitVec.ushiftRight_xor_distrib]
  dsimp only
  split <;> ac_rfl

theorem crcBit_snd (cb : Byte × Byte) : (crcBit cb).2 = cb.2 >>> 1 := rfl

/-- The CRC of one byte. -/
def crcTable (v : Byte) : Byte := crcShift^[8] v

theorem crcTable_xor (v w : Byte) : crcTable (v ^^^ w) = crcTable v ^^^ crcTable w :=
  Function.Semiconj₂.iterate crcShift_xor 8 v w

/-- After eight bits nothing is left of the byte, so that the register alone is the eight shifts. -/
theorem crcByte_eq (c b : Byte) : crcByte c b = crcTable (c ^^^ b) := by
  have hbyte : b >>> 1 >>> 1 >>> 1 >>> 1 >>> 1 >>> 1 >>> 1 >>> 1 = 0#8 := by
    simpa only [← BitVec.shiftRight_add] using BitVec.ushiftRight_eq_zero (le_refl 8)
  calc crcByte c b = crcByte c b ^^^ 0#8 := BitVec.xor_zero.symm
    _ = crcTable (c ^^^ b) := by
      simp only [← hbyte, crcByte, ← crcBit_snd (c, b), ← crcBit_snd, crcBit_xor]
      rfl

/-- The CRC takes a sequence a byte at a time. -/
theorem crc8_concat (d : List Byte) (b : Byte) : crc8 (d ++ [b]) = crcTable (crc8 d ^^^ b) := by
  rw [crc8, List.foldl_append, List.foldl_cons, List.foldl_nil, crcByte_eq, crc8]

theorem crc8_singleton (b : Byte) : crc8 [b] = crcTable b :=
  (crc8_concat [] b).trans (congrArg crcTable BitVec.zero_xor)

/-- Settles O36: a sequence followed by its own CRC ends with the byte `crc8 d` on the register `crc8 d`, whose xor is 0. -/
theorem crcSelfCheck : Obligations.CrcSelfCheck := by
  refine ⟨fun d => ?_, fun d b => ?_, fun a b => ?_, by decide⟩
  · rw [crc8_concat, BitVec.xor_self]
    rfl
  · rw [crc8_concat, crc8_singleton]
  · simp only [crc8_singleton, crcTable_xor]

end Sys2Proof.Machine
end

section
/-! SUPPORT. A search pass in full (spec 41_onewire.md R211-R213, R215): where it stands at each bit position as long as a
device answers, how it ends where none does, and how it ends after the last position. What the pass does at a position is a
function of the draws and of the state it begins with, because a position is read before it is written. -/

namespace Sys2Proof.Machine

/-! ### One bit position (R212) -/

theorem State.after_withOw (s : State) (es : List Event) (n : Nat) (x : OwSession) :
    (s.after es n).withOw x = (s.withOw x).after es n := rfl

theorem State.level_withOw (s : State) (x : OwSession) (k : Nat) : (s.withOw x).level k = s.level k := rfl

theorem owReadBit_eq_owBitIn (s : State) : owReadBit s = (s.level 0, s.after (owBitIn s.ow.pin (s.level 0)) 1) := by
  rw [owReadBit_eq, owBitIn]

/-- A position at which no device answers ends the pass. -/
theorem searchBits_unanswered {n k lastZero : Nat} {s : State} (h : s.level 0 = true ∧ s.level 1 = true) :
    searchBits (n + 1) k lastZero s = (none, s.after (owBitIn s.ow.pin true ++ owBitIn s.ow.pin true) 2) := by
  obtain ⟨hbit, hcomplement⟩ := h
  simp only [searchBits, owReadBit_eq_owBitIn, State.level_after, State.after_after, State.after_ow, hbit, hcomplement,
    Bool.and_self, if_true]

/-- A position at which a device answers writes the direction taken, on the bus and in the ROM buffer. -/
theorem searchBits_answered {n k lastZero : Nat} {s : State} (h : ¬(s.level 0 = true ∧ s.level 1 = true)) {d : Bool}
    (hd : searchDirection k s.ow.lastDiscrepancy (s.level 0) (s.level 1) (romBit s.ow.rom k) = d) :
    searchBits (n + 1) k lastZero s =
      searchBits n (k + 1) (searchLastZero k lastZero (s.level 0) (s.level 1) d)
        ((s.withOw { s.ow with rom := setRomBit s.ow.rom k d }).after
          (owBitIn s.ow.pin (s.level 0) ++ owBitIn s.ow.pin (s.level 1) ++ owBitOut s.ow.pin d) 2) := by
  have hgoes : ¬(s.level 0 && s.level 1) = true := by rwa [Bool.and_eq_true]
  simp only [searchBits, owReadBit_eq_owBitIn, State.level_after, State.after_after, State.after_ow, Nat.add_zero,
    if_neg hgoes, hd, owWriteBit_eq, State.after_withOw, State.withOw_ow]

/-! ### The pass at position `k` -/

/-- Whether a device answers at position `k` of the pass that begins at `s`. -/
def State.answered (s : State) (k : Nat) : Prop := ¬(s.level (1 + 2 * k) = true ∧ s.level (2 + 2 * k) = true)

/-- The direction the pass that begins at `s` takes at position `k` (R212). -/
def State.direction (s : State) (k : Nat) : Bool :=
  searchDirection k s.ow.lastDiscrepancy (s.level (1 + 2 * k)) (s.level (2 + 2 * k)) (romBit s.ow.rom k)

/-- The ROM buffer when position `k` is reached: the directions taken below `k`, written over the old id. -/
def State.romAt (s : State) : Nat → BitVec 64
  | 0 => s.ow.rom
  | k + 1 => setRomBit (s.romAt k) k (s.direction k)

/-- `last_zero` when position `k` is reached. -/
def State.lastZeroAt (s : State) : Nat → Nat
  | 0 => 64
  | k + 1 => searchLastZero k (s.lastZeroAt k) (s.level (1 + 2 * k)) (s.level (2 + 2 * k)) (s.direction k)

/-- The events of the pass up to position `k`. -/
def State.passEvents (s : State) (k : Nat) : List Event :=
  owResetSlot s.ow.pin (s.level 0) ++ lsbFirst.flatMap (fun j => owBitOut s.ow.pin (s.ow.searchCommand.byte.getLsbD j))
    ++ (List.range k).flatMap fun j =>
        owBitIn s.ow.pin (s.level (1 + 2 * j)) ++ owBitIn s.ow.pin (s.level (2 + 2 * j))
          ++ owBitOut s.ow.pin (s.direction j)

/-- The pass that begins at `s`, when position `k` is reached. -/
def State.passAt (s : State) (k : Nat) : State :=
  (s.withOw { s.ow with rom := s.romAt k }).after (s.passEvents k) (1 + 2 * k)

section Positions

variable (s : State)

theorem romBit_romAt {k : Nat} (hk : k ≤ 64) (j : Nat) :
    romBit (s.romAt k) j = if j < k then s.direction j else romBit s.ow.rom j := by
  induction k with
  | zero => rfl
  | succ k ih =>
    rw [State.romAt, romBit_setRomBit (by omega), ih (by omega)]
    rcases Nat.lt_trichotomy j k with hj | rfl | hj
    · rw [if_neg (by omega), if_pos hj, if_pos (by omega)]
    · rw [if_pos rfl, if_pos (by omega)]
    · rw [if_neg (by omega), if_neg (by omega), if_neg (by omega)]

theorem passEvents_succ (k : Nat) :
    s.passEvents (k + 1) = s.passEvents k ++ (owBitIn s.ow.pin (s.level (1 + 2 * k))
      ++ owBitIn s.ow.pin (s.level (2 + 2 * k)) ++ owBitOut s.ow.pin (s.direction k)) := by
  simp [State.passEvents, List.range_succ]

theorem passAt_level (k j : Nat) : (s.passAt k).level j = s.level (1 + 2 * k + j) := by
  rw [State.passAt, State.level_after, State.level_withOw]

theorem passAt_ow (k : Nat) : (s.passAt k).ow = { s.ow with rom := s.romAt k } := rfl

theorem passAt_succ (k : Nat) :
    s.passAt (k + 1) =
      ((s.passAt k).withOw { (s.passAt k).ow with rom := setRomBit (s.passAt k).ow.rom k (s.direction k) }).after
        (owBitIn s.ow.pin (s.level (1 + 2 * k)) ++ owBitIn s.ow.pin (s.level (2 + 2 * k))
          ++ owBitOut s.ow.pin (s.direction k)) 2 := by
  rw [passAt_ow, State.passAt, State.passAt, passEvents_succ, State.after_withOw, State.after_after]
  rfl

theorem searchBits_passAt {n k lastZero : Nat} (hk : k < 64) (h : s.answered k) :
    searchBits (n + 1) k lastZero (s.passAt k)
      = searchBits n (k + 1)
          (searchLastZero k lastZero (s.level (1 + 2 * k)) (s.level (2 + 2 * k)) (s.direction k)) (s.passAt (k + 1)) := by
  have hstored : romBit (s.romAt k) k = romBit s.ow.rom k := by rw [romBit_romAt s hk.le, if_neg (lt_irrefl k)]
  have hfirst : (s.passAt k).level 0 = s.level (1 + 2 * k) := passAt_level s k 0
  have hsecond : (s.passAt k).level 1 = s.level (2 + 2 * k) := by rw [passAt_level, Nat.add_right_comm]
  rw [searchBits_answered (d := s.direction k), hfirst, hsecond, passAt_succ, passAt_ow]
  · rwa [hfirst, hsecond]
  · rw [hfirst, hsecond, passAt_ow, hstored, State.direction]

/-- As long as a device answers, a pass goes from position to position. -/
theorem searchBits_from_start {k n : Nat} (hkn : k + n = 64) (h : ∀ j < k, s.answered j) :
    searchBits 64 0 64 (s.passAt 0) = searchBits n k (s.lastZeroAt k) (s.passAt k) := by
  induction k generalizing n with
  | zero => rw [State.lastZeroAt, show n = 64 by omega]
  | succ k ih =>
    rw [ih (n := n + 1) (by omega) fun j hj => h j (by omega),
      searchBits_passAt s (by omega) (h k (Nat.lt_succ_self k)), State.lastZeroAt]

end Positions

/-! ### The pass -/

/-- An exhausted search has no bus activity (R211). -/
theorem searchPass_exhausted {s : State} (h : s.ow.lastDeviceFlag = true) : searchPass s = (false, s) := by
  rw [searchPass, if_pos h]

/-- A pass on an empty bus ends after its reset (R211). -/
theorem searchPass_empty {s : State} (hflag : s.ow.lastDeviceFlag = false) (hbus : s.level 0 = true) :
    searchPass s = (false, s.after (owResetSlot s.ow.pin true) 1) := by
  simp [searchPass, hflag, owReset_eq, hbus, owResetSlot]

/-- With presence, a pass is its bit positions after the reset and the command byte (R211). -/
theorem searchPass_present {s t : State} {found : Option Nat} (hflag : s.ow.lastDeviceFlag = false)
    (hbus : s.level 0 = false) (h : searchBits 64 0 64 (s.passAt 0) = (found, t)) :
    searchPass s = found.elim (false, t) fun lastZero => (true, searchFinish lastZero t) := by
  have hstart : owWriteByte (owReset true s).2.ow.searchCommand.byte (owReset true s).2 = s.passAt 0 := by
    rw [owReset_eq, owWriteByte_eq, State.after_after, State.passAt, State.passEvents, List.range_zero, List.flatMap_nil,
      List.append_nil]
    rfl
  have hreset : (owReset true s).1 = true := by rw [owReset_eq, hbus]; rfl
  simp only [searchPass, hflag, hreset, hstart, h]
  cases found <;> rfl

/-- A pass that is aborted at position `k` (R212, R215). -/
theorem searchPass_aborted {s : State} {k : Nat} (hflag : s.ow.lastDeviceFlag = false) (hbus : s.level 0 = false)
    (hk : k < 64) (hbelow : ∀ j < k, s.answered j) (habort : ¬s.answered k) :
    searchPass s = (false, (s.passAt k).after (owBitIn s.ow.pin true ++ owBitIn s.ow.pin true) 2) := by
  have hdraws : (s.passAt k).level 0 = true ∧ (s.passAt k).level 1 = true := by
    rw [passAt_level, passAt_level, Nat.add_right_comm 1 (2 * k) 1]
    exact not_not.mp habort
  refine searchPass_present (found := none) hflag hbus ?_
  rw [searchBits_from_start s (n := 63 - k + 1) (by omega) hbelow, searchBits_unanswered hdraws, passAt_ow]

/-- A pass in which a device answers at every position finds the directions it took (R213). -/
theorem searchPass_found {s : State} (hflag : s.ow.lastDeviceFlag = false) (hbus : s.level 0 = false)
    (h : ∀ j < 64, s.answered j) : searchPass s = (true, searchFinish (s.lastZeroAt 64) (s.passAt 64)) :=
  searchPass_present (found := some (s.lastZeroAt 64)) hflag hbus (searchBits_from_start s (n := 0) rfl h)

/-- Settles O35: such a pass is the one that has reached position `k`, and two samples more. -/
theorem abortedSearchPassKeepsTheSearchState : Obligations.AbortedSearchPassKeepsTheSearchState := by
  intro s k hflag hbus hk hbelow hbit hcomplement
  rw [searchPass_aborted hflag hbus hk hbelow (not_not.mpr ⟨hbit, hcomplement⟩)]
  refine ⟨rfl, rfl, fun j hj => ?_, ?_⟩
  · exact (romBit_romAt s hk.le j).trans (if_neg (by omega))
  · show s.env.drawn + (1 + 2 * k) + 2 = s.env.drawn + 3 + 2 * k
    omega

end Sys2Proof.Machine
end

section
/-! SUPPORT. A search pass on a bus of devices (spec 41_onewire.md R210-R214, R217, R220), and the commands and turns built on
it. The devices that still listen answer `00` exactly where one of them branches off the path
(`BusFollows.samples_of_branch`), so the pass follows the path if it takes the path's direction at those positions, and it
records the last of them where the path has the 0. There the next id in the search's order branches off, because first
differences are ultrametric (`firstDifference_of_lt`). -/

namespace Sys2Proof.Machine

/-! ### The first difference of two ids -/

theorem agreeBelow_iff {k : Nat} {x y : BitVec 64} : agreeBelow k x y = true ↔ ∀ j < k, x.getLsbD j = y.getLsbD j := by
  simp [agreeBelow]

theorem firstDifference_spec (x y : BitVec 64) :
    firstDifference x y ≤ 64 ∧ agreeBelow (firstDifference x y) x y = true
      ∧ (firstDifference x y < 64 → x.getLsbD (firstDifference x y) ≠ y.getLsbD (firstDifference x y)) := by
  rw [agreeBelow_iff, firstDifference]
  cases h : (List.range 64).find? (fun j => x.getLsbD j != y.getLsbD j) with
  | none => simpa using h
  | some d =>
    obtain ⟨hne, hd, hbelow⟩ := List.find?_range_eq_some.mp h
    exact ⟨(List.mem_range.mp hd).le, by simpa using hbelow, fun _ => by simpa using hne⟩

theorem firstDifference_le (x y : BitVec 64) : firstDifference x y ≤ 64 := by
  obtain ⟨hle, -, -⟩ := firstDifference_spec x y
  exact hle

theorem getLsbD_eq_of_lt_firstDifference {x y : BitVec 64} {j : Nat} (h : j < firstDifference x y) :
    x.getLsbD j = y.getLsbD j := by
  obtain ⟨-, hbelow, -⟩ := firstDifference_spec x y
  exact agreeBelow_iff.mp hbelow j h

theorem getLsbD_firstDifference_ne {x y : BitVec 64} (h : firstDifference x y < 64) :
    x.getLsbD (firstDifference x y) ≠ y.getLsbD (firstDifference x y) := by
  obtain ⟨-, -, hat⟩ := firstDifference_spec x y
  exact hat h

theorem firstDifference_eq_iff {x y : BitVec 64} {k : Nat} (hk : k < 64) :
    firstDifference x y = k ↔ agreeBelow k x y = true ∧ x.getLsbD k ≠ y.getLsbD k := by
  refine ⟨?_, fun ⟨hbelow, hne⟩ => ?_⟩
  · rintro rfl
    exact ⟨agreeBelow_iff.mpr fun j hj => getLsbD_eq_of_lt_firstDifference hj, getLsbD_firstDifference_ne hk⟩
  · rcases Nat.lt_trichotomy (firstDifference x y) k with hlt | heq | hgt
    · exact absurd (agreeBelow_iff.mp hbelow _ hlt) (getLsbD_firstDifference_ne (hlt.trans hk))
    · exact heq
    · exact absurd (getLsbD_eq_of_lt_firstDifference hgt) hne

theorem firstDifference_self (x : BitVec 64) : firstDifference x x = 64 :=
  (firstDifference_le x x).eq_of_not_lt fun h => getLsbD_firstDifference_ne h rfl

theorem firstDifference_comm (x y : BitVec 64) : firstDifference x y = firstDifference y x := by
  simp only [firstDifference, bne_comm]

/-- Two ids that agree beyond the first difference of one of them with a third have that same first difference with it. -/
theorem firstDifference_of_lt {x y z : BitVec 64} (h : firstDifference x y < firstDifference y z) :
    firstDifference x z = firstDifference x y ∧ z.getLsbD (firstDifference x y) = y.getLsbD (firstDifference x y) := by
  have hlt : firstDifference x y < 64 := lt_of_lt_of_le h (firstDifference_le y z)
  obtain ⟨hbelow, hat⟩ := (firstDifference_eq_iff hlt).mp rfl
  have hyz := getLsbD_eq_of_lt_firstDifference h
  refine ⟨(firstDifference_eq_iff hlt).mpr ⟨agreeBelow_iff.mpr fun j hj => ?_, hyz ▸ hat⟩, hyz.symm⟩
  exact (agreeBelow_iff.mp hbelow j hj).trans (getLsbD_eq_of_lt_firstDifference (hj.trans h))

/-! ### The order of the search (R217) -/

section Order

variable {x y z : BitVec 64}

theorem SearchedBefore.lt (h : SearchedBefore x y) : firstDifference x y < 64 := by
  obtain ⟨hlt, -⟩ := h
  exact hlt

theorem SearchedBefore.bits (h : SearchedBefore x y) :
    x.getLsbD (firstDifference x y) = false ∧ y.getLsbD (firstDifference x y) = true := by
  obtain ⟨hlt, hx⟩ := h
  obtain ⟨-, hne⟩ := (firstDifference_eq_iff hlt).mp rfl
  exact ⟨hx, by simpa [hx] using hne⟩

/-- Of the ids after `x`, the next one shares the longest beginning with it. -/
theorem firstDifference_le_of_searchedBefore (hxy : SearchedBefore x y) (hyz : SearchedBefore y z) :
    firstDifference x z ≤ firstDifference x y := by
  by_contra! hlt
  rw [firstDifference_comm x y] at hlt
  obtain ⟨hfirst, -⟩ := firstDifference_of_lt hlt
  have hy : y.getLsbD (firstDifference y z) = false := hyz.bits.1
  rw [hfirst, firstDifference_comm y x, hxy.bits.2] at hy
  cases hy

/-- No id before `x` shares with the id after `x` more than `x` does. -/
theorem SearchedBefore.not_lt (hzx : SearchedBefore z x) (hxy : SearchedBefore x y) :
    ¬firstDifference x y < firstDifference y z := by
  intro hlt
  obtain ⟨hfirst, hbit⟩ := firstDifference_of_lt hlt
  have hz : z.getLsbD (firstDifference x z) = false := firstDifference_comm z x ▸ hzx.bits.1
  rw [hfirst, hbit, hxy.bits.2] at hz
  cases hz

end Order

/-! ### What the bus answers (R217) -/

/-- Another device branches off `path` at position `k`. -/
def Branches (ids : List (BitVec 64)) (path : BitVec 64) (k : Nat) : Prop := ∃ z ∈ ids, firstDifference path z = k

theorem mem_listening {ids : List (BitVec 64)} {path z : BitVec 64} {k : Nat} :
    z ∈ listening ids path k ↔ z ∈ ids ∧ agreeBelow k path z = true := List.mem_filter

/-- Where no device branches off, every device that listens has the path's bit. -/
theorem getLsbD_of_listening {ids : List (BitVec 64)} {path z : BitVec 64} {k : Nat} (hk : k < 64)
    (h : ¬Branches ids path k) (hz : z ∈ listening ids path k) : z.getLsbD k = path.getLsbD k := by
  obtain ⟨hmem, hagree⟩ := mem_listening.mp hz
  by_contra hne
  exact h ⟨z, hmem, (firstDifference_eq_iff hk).mpr ⟨hagree, Ne.symm hne⟩⟩

section Bus

variable {ids : List (BitVec 64)} {path : BitVec 64} {s : State} {k : Nat}

theorem path_mem_listening (hmem : path ∈ ids) : path ∈ listening ids path k :=
  mem_listening.mpr ⟨hmem, agreeBelow_iff.mpr fun _ _ => rfl⟩

/-- The two samples of a position where a device branches off: some device pulls each of them low. -/
theorem BusFollows.samples_of_branch (hbus : BusFollows ids path s) (hmem : path ∈ ids) (hk : k < 64)
    (h : Branches ids path k) : s.level (1 + 2 * k) = false ∧ s.level (2 + 2 * k) = false := by
  obtain ⟨z, hz, hfirst⟩ := h
  obtain ⟨hagree, hne⟩ := (firstDifference_eq_iff hk).mp hfirst
  have hlistens : z ∈ listening ids path k := mem_listening.mpr ⟨hz, hagree⟩
  have hpath : path ∈ listening ids path k := path_mem_listening hmem
  obtain ⟨hbit, hcomplement⟩ := hbus.2 k hk
  rw [hbit, hcomplement, List.all_eq_false, List.all_eq_false]
  cases hp : path.getLsbD k with
  | false => exact ⟨⟨path, hpath, by simp [hp]⟩, ⟨z, hlistens, by simpa [hp] using hne⟩⟩
  | true => exact ⟨⟨z, hlistens, by simpa [hp] using hne⟩, ⟨path, hpath, by simp [hp]⟩⟩

/-- The two samples of a position where none does: the path's bit and its complement. -/
theorem BusFollows.samples_of_no_branch (hbus : BusFollows ids path s) (hmem : path ∈ ids) (hk : k < 64)
    (h : ¬Branches ids path k) :
    s.level (1 + 2 * k) = path.getLsbD k ∧ s.level (2 + 2 * k) = !path.getLsbD k := by
  have hpath : path ∈ listening ids path k := path_mem_listening hmem
  have hsame : ∀ f : Bool → Bool, (listening ids path k).all (fun z => f (z.getLsbD k)) = f (path.getLsbD k) := by
    intro f
    rw [Bool.eq_iff_iff, List.all_eq_true]
    exact ⟨fun hall => hall path hpath, fun hp z hz => (getLsbD_of_listening hk h hz).symm ▸ hp⟩
  obtain ⟨hbit, hcomplement⟩ := hbus.2 k hk
  exact ⟨hbit.trans (hsame id), hcomplement.trans (hsame not)⟩

theorem BusFollows.answered (hbus : BusFollows ids path s) (hmem : path ∈ ids) (hk : k < 64) : s.answered k := by
  by_cases h : Branches ids path k
  · simp [State.answered, hbus.samples_of_branch hmem hk h]
  · simp [State.answered, hbus.samples_of_no_branch hmem hk h]

/-- The direction taken is the path's, if it is where a device branches off. -/
theorem BusFollows.direction (hbus : BusFollows ids path s) (hmem : path ∈ ids) (hk : k < 64)
    (hguide : Branches ids path k →
      searchDirection k s.ow.lastDiscrepancy false false (romBit s.ow.rom k) = path.getLsbD k) :
    s.direction k = path.getLsbD k := by
  by_cases h : Branches ids path k
  · obtain ⟨hbit, hcomplement⟩ := hbus.samples_of_branch hmem hk h
    rw [State.direction, hbit, hcomplement, hguide h]
  · obtain ⟨hbit, hcomplement⟩ := hbus.samples_of_no_branch hmem hk h
    rw [State.direction, hbit, hcomplement]
    simp [searchDirection]

/-- `last_zero` is written where a device branches off and the path has the 0 (R212). -/
theorem BusFollows.lastZeroAt_of_zero (hbus : BusFollows ids path s) (hmem : path ∈ ids) (hk : k < 64)
    (hdirection : s.direction k = path.getLsbD k) (hbranch : Branches ids path k) (hzero : path.getLsbD k = false) :
    s.lastZeroAt (k + 1) = k := by
  obtain ⟨hbit, hcomplement⟩ := hbus.samples_of_branch hmem hk hbranch
  rw [State.lastZeroAt, hbit, hcomplement, hdirection, hzero]
  rfl

/-- It is kept at every other position. -/
theorem BusFollows.lastZeroAt_of_not_zero (hbus : BusFollows ids path s) (hmem : path ∈ ids) (hk : k < 64)
    (hdirection : s.direction k = path.getLsbD k) (h : Branches ids path k → path.getLsbD k = true) :
    s.lastZeroAt (k + 1) = s.lastZeroAt k := by
  rw [State.lastZeroAt, hdirection, searchLastZero]
  by_cases hbranch : Branches ids path k
  · simp [h hbranch]
  · obtain ⟨hbit, hcomplement⟩ := hbus.samples_of_no_branch hmem hk hbranch
    simp [hbit, hcomplement]

/-- It is kept over any positions at none of which a device branches off the path to its 1. -/
theorem BusFollows.lastZeroAt_kept (hbus : BusFollows ids path s) (hmem : path ∈ ids)
    (hdirection : ∀ j < 64, s.direction j = path.getLsbD j)
    (h : ∀ j, k ≤ j → j < 64 → Branches ids path j → path.getLsbD j = true) {m : Nat} (hkm : k ≤ m) (hm : m ≤ 64) :
    s.lastZeroAt m = s.lastZeroAt k := by
  induction m, hkm using Nat.le_induction with
  | base => rfl
  | succ m hkm ih =>
    rw [hbus.lastZeroAt_of_not_zero hmem hm (hdirection m hm) (h m hkm hm), ih (Nat.le_of_succ_le hm)]

end Bus

/-! ### A pass along a device (R212, R213) -/

section Pass

variable {before after : List (BitVec 64)} {path : BitVec 64} {s : State} {k : Nat}

/-- Where the path has the 1 it is a device before it that branches off, and where it has the 0 a device after it. -/
theorem Branches.side (h : Branches (before ++ path :: after) path k) (hk : k < 64)
    (horder : (before ++ path :: after).Pairwise SearchedBefore) :
    (path.getLsbD k = true ∧ ∃ z ∈ before, firstDifference path z = k)
      ∨ (path.getLsbD k = false ∧ ∃ z ∈ after, firstDifference path z = k) := by
  obtain ⟨-, hpath, hbefore⟩ := List.pairwise_append.mp horder
  obtain ⟨hafter, -⟩ := List.pairwise_cons.mp hpath
  obtain ⟨z, hz, rfl⟩ := h
  rcases List.mem_append.mp hz with hz | hz
  · refine .inl ⟨?_, z, hz, rfl⟩
    rw [firstDifference_comm]
    exact (hbefore z hz path List.mem_cons_self).bits.2
  · rcases List.mem_cons.mp hz with rfl | hz
    · exact absurd (firstDifference_self z) hk.ne
    · exact .inr ⟨(hafter z hz).bits.1, z, hz, rfl⟩

/-- A pass along a device records where the device after it branches off. -/
theorem BusFollows.lastZeroAt_end (hbus : BusFollows (before ++ path :: after) path s)
    (horder : (before ++ path :: after).Pairwise SearchedBefore)
    (hdirection : ∀ j < 64, s.direction j = path.getLsbD j) : s.lastZeroAt 64 = branchAfter path after.head? := by
  have hmem : path ∈ before ++ path :: after := by simp
  have hlast {k : Nat} (hk : k ≤ 64) (hafter : ∀ z ∈ after, firstDifference path z < k) :
      s.lastZeroAt 64 = s.lastZeroAt k := by
    refine hbus.lastZeroAt_kept hmem hdirection (fun j hkj hj hbranch => ?_) hk (le_refl 64)
    rcases hbranch.side hj horder with ⟨hone, -⟩ | ⟨-, z, hz, hfirst⟩
    · exact hone
    · exact absurd (hafter z hz) (by omega)
  cases after with
  | nil => exact hlast (Nat.zero_le 64) (by simp)
  | cons y later =>
    obtain ⟨-, hpath, -⟩ := List.pairwise_append.mp horder
    obtain ⟨hfirst, hlater⟩ := List.pairwise_cons.mp hpath
    have hy : SearchedBefore path y := hfirst y List.mem_cons_self
    have hbranch : Branches (before ++ path :: y :: later) path (firstDifference path y) := ⟨y, by simp, rfl⟩
    have hle : ∀ z ∈ y :: later, firstDifference path z ≤ firstDifference path y := by
      intro z hz
      rcases List.mem_cons.mp hz with rfl | hz
      · exact le_refl _
      · exact firstDifference_le_of_searchedBefore hy ((List.pairwise_cons.mp hlater).1 z hz)
    rw [hlast hy.lt fun z hz => Nat.lt_succ_of_le (hle z hz),
      hbus.lastZeroAt_of_zero hmem hy.lt (hdirection _ hy.lt) hbranch hy.bits.1]
    rfl

/-- There is no device after it exactly where there is no position to record. -/
theorem branchAfter_eq_64_iff (horder : (before ++ path :: after).Pairwise SearchedBefore) :
    branchAfter path after.head? = 64 ↔ after = [] := by
  cases after with
  | nil => simp [branchAfter]
  | cons y later =>
    obtain ⟨-, hpath, -⟩ := List.pairwise_append.mp horder
    have hlt : firstDifference path y < 64 := ((List.pairwise_cons.mp hpath).1 y List.mem_cons_self).lt
    simp [branchAfter, hlt.ne]

theorem romAt_end (hdirection : ∀ j < 64, s.direction j = path.getLsbD j) : s.romAt 64 = path :=
  BitVec.eq_of_getLsbD_eq fun j hj =>
    ((romBit_romAt s (le_refl 64) j).trans (if_pos hj)).trans (hdirection j hj)

theorem passEvents_end (hdirection : ∀ j < 64, s.direction j = path.getLsbD j) :
    s.passEvents 64 = searchEvents s s.ow.searchCommand.byte path := by
  rw [State.passEvents, searchEvents]
  refine congrArg _ (List.flatMap_congr fun j hj => ?_)
  rw [hdirection j (List.mem_range.mp hj)]

/-- A pass that, where devices branch, takes the direction of the device `path` finds it, and records where the device
after it branches off. -/
theorem searchPass_along (hflag : s.ow.lastDeviceFlag = false) (hbus : BusFollows (before ++ path :: after) path s)
    (horder : (before ++ path :: after).Pairwise SearchedBefore)
    (hguide : ∀ k < 64, Branches (before ++ path :: after) path k →
      searchDirection k s.ow.lastDiscrepancy false false (romBit s.ow.rom k) = path.getLsbD k) :
    searchPass s =
      (true, (s.withOw { s.ow with
        rom := path, lastDiscrepancy := branchAfter path after.head?, lastDeviceFlag := after.isEmpty }).after
          (searchEvents s s.ow.searchCommand.byte path) 129) := by
  have hmem : path ∈ before ++ path :: after := by simp
  have hdirection : ∀ k < 64, s.direction k = path.getLsbD k := fun k hk => hbus.direction hmem hk (hguide k hk)
  have hlast : (if branchAfter path after.head? = 64 then true else false) = after.isEmpty := by
    rw [Bool.eq_iff_iff, List.isEmpty_iff, ← branchAfter_eq_64_iff horder]
    simp
  rw [searchPass_found hflag hbus.1 fun k hk => hbus.answered hmem hk, hbus.lastZeroAt_end horder hdirection,
    searchFinish, passAt_ow, hflag, hlast, romAt_end hdirection, State.passAt, State.after_withOw, State.withOw_same,
    passEvents_end hdirection]

/-! ### The two passes of the enumerator (R210, R214) -/

/-- The first pass takes the 0 wherever devices branch (R210). -/
theorem searchDirection_first (hk : k < 64) : searchDirection k 64 false false (romBit 0#64 k) = false := by
  simp [searchDirection, hk, hk.ne, romBit]

theorem owFindFirst_onBus (cmd : SearchCommand) (hbus : BusFollows (path :: after) path s)
    (horder : (path :: after).Pairwise SearchedBefore) :
    owFindFirst cmd s =
      (true, (s.withOw { pin := s.ow.pin, lastDeviceFlag := after.isEmpty,
                         lastDiscrepancy := branchAfter path after.head?, searchCommand := cmd, rom := path }).after
        (searchEvents s cmd.byte path) 129) := by
  refine searchPass_along (before := []) rfl hbus horder fun k hk hbranch => ?_
  rw [State.withOw_ow, searchDirection_first hk]
  rcases hbranch.side (before := []) hk horder with ⟨-, z, hz, -⟩ | ⟨hzero, -⟩
  · cases hz
  · exact hzero.symm

/-- A later pass follows the last id up to the recorded position, takes the 1 there and the 0 after it. -/
theorem searchDirection_next {x : BitVec 64} (hk : k < 64)
    (horder : (before ++ [x] ++ path :: after).Pairwise SearchedBefore)
    (hbranch : Branches (before ++ [x] ++ path :: after) path k) :
    searchDirection k (firstDifference x path) false false (romBit x k) = path.getLsbD k := by
  obtain ⟨hbefore, -, hpath⟩ := List.pairwise_append.mp horder
  have hx : SearchedBefore x path := hpath x (by simp) path List.mem_cons_self
  rcases Nat.lt_trichotomy k (firstDifference x path) with hlt | rfl | hgt
  · simpa [searchDirection, hlt, hlt.ne, romBit] using getLsbD_eq_of_lt_firstDifference hlt
  · simp [searchDirection, hx.bits.2]
  · have hzero : path.getLsbD k = false := by
      rcases hbranch.side hk horder with ⟨-, z, hz, rfl⟩ | ⟨hzero, -⟩
      · rcases List.mem_append.mp hz with hz | hz
        · have hzx : SearchedBefore z x := (List.pairwise_append.mp hbefore).2.2 z hz x List.mem_cons_self
          exact absurd hgt (hzx.not_lt hx)
        · rw [List.mem_singleton.mp hz, firstDifference_comm] at hgt
          exact absurd hgt (lt_irrefl _)
      · exact hzero
    simp [searchDirection, hgt.ne', hgt.not_gt, hzero]

theorem owFindNext_onBus {x : BitVec 64} (horder : (before ++ x :: path :: after).Pairwise SearchedBefore)
    (hrom : s.ow.rom = x) (hdisc : s.ow.lastDiscrepancy = firstDifference x path) (hflag : s.ow.lastDeviceFlag = false)
    (hbus : BusFollows (before ++ x :: path :: after) path s) :
    owFindNext s =
      (true, (s.withOw { s.ow with
        rom := path, lastDiscrepancy := branchAfter path after.head?, lastDeviceFlag := after.isEmpty }).after
          (searchEvents s s.ow.searchCommand.byte path) 129) := by
  rw [List.append_cons] at horder hbus
  refine searchPass_along hflag hbus horder fun k hk hbranch => ?_
  rw [hdisc, hrom, searchDirection_next hk horder hbranch]

end Pass

/-- Settles O34: the next pass in full, and after the last device the flag that it set. -/
theorem searchWalksTheDevicesInOrder : Obligations.SearchWalksTheDevicesInOrder := by
  intro earlier later x y s horder hrom hdisc hflag hbus
  rw [owFindNext_onBus horder hrom hdisc hflag hbus]
  refine ⟨rfl, ?_⟩
  rintro rfl
  exact searchPass_exhausted rfl

/-! ### The search commands (R220, R234, R235) -/

/-- A search command is the first pass of its listing and its record. -/
theorem exec_search {i : Instr} {cmd : SearchCommand}
    (h : i = .owSearchRom ∧ cmd = .romSearch ∨ i = .owSearchAlarm ∧ cmd = .alarmSearch) (s : State) :
    exec i s = .next (listRecord (owFindFirst cmd s)) := by
  rcases h with ⟨rfl, rfl⟩ | ⟨rfl, rfl⟩ <;> rfl

/-- Settles O32: the first pass in full, and its record. -/
theorem searchCommandSendsTheFirstDevice : Obligations.SearchCommandSendsTheFirstDevice := by
  intro s i cmd code x later hi horder hbus
  have hcode : cmd.byte = code := by
    rcases hi with ⟨-, rfl, rfl⟩ | ⟨-, rfl, rfl⟩ <;> rfl
  have hcommand : i = .owSearchRom ∧ cmd = .romSearch ∨ i = .owSearchAlarm ∧ cmd = .alarmSearch :=
    hi.imp (fun ⟨hrom, hcmd, _⟩ => ⟨hrom, hcmd⟩) fun ⟨halarm, hcmd, _⟩ => ⟨halarm, hcmd⟩
  have hexec := exec_search hcommand s
  rw [owFindFirst_onBus cmd hbus horder, listRecord_found, hcode] at hexec
  exact answers_of_sendThen hexec rfl

theorem owFindFirst_empty (cmd : SearchCommand) {s : State} (hbus : s.level 0 = true) :
    owFindFirst cmd s =
      (false, (s.withOw { pin := s.ow.pin, lastDeviceFlag := false, lastDiscrepancy := 64, searchCommand := cmd,
                          rom := 0#64 }).after (owResetSlot s.ow.pin true) 1) :=
  searchPass_empty rfl hbus

/-- Settles O31: the first pass ends after its reset, and the record is the end record. -/
theorem searchOnEmptyBusSendsTheSentinel : Obligations.SearchOnEmptyBusSendsTheSentinel := by
  intro s i cmd hi hbus
  have hexec := exec_search hi s
  rw [owFindFirst_empty cmd hbus, listRecord_end] at hexec
  exact answers_of_reply hexec rfl

theorem exec_owReset (s : State) : exec .owReset s = .next (reply okByte (owReset false s).2) := rfl

/-- Settles O28: the reset in full (`owReset_eq`), whatever the sample. -/
theorem owResetCommand : Obligations.OwResetCommand := by
  intro s
  have hexec := exec_owReset s
  rw [owReset_eq] at hexec
  exact answers_of_reply hexec rfl

/-! ### A further turn of a listing (R220) -/

/-- A search pass does not touch the listing. -/
theorem searchBits_withListing (b : Bool) (n : Nat) : ∀ (k lastZero : Nat) (s : State),
    searchBits n k lastZero (s.withListing b)
      = ((searchBits n k lastZero s).1, (searchBits n k lastZero s).2.withListing b) := by
  induction n with
  | zero => intro k lastZero s; rfl
  | succ n ih =>
    intro k lastZero s
    by_cases h : s.level 0 = true ∧ s.level 1 = true
    · rw [searchBits_unanswered h, searchBits_unanswered (s := s.withListing b) h]
      rfl
    · rw [searchBits_answered h rfl, searchBits_answered (s := s.withListing b) h rfl, ← ih]
      rfl

theorem searchPass_withListing (b : Bool) (s : State) :
    searchPass (s.withListing b) = ((searchPass s).1, (searchPass s).2.withListing b) := by
  cases hflag : s.ow.lastDeviceFlag with
  | true => rw [searchPass_exhausted hflag, searchPass_exhausted (s := s.withListing b) hflag]
  | false =>
    cases hbus : s.level 0 with
    | true =>
      rw [searchPass_empty hflag hbus, searchPass_empty (s := s.withListing b) hflag hbus]
      rfl
    | false =>
      rcases hbits : searchBits 64 0 64 (s.passAt 0) with ⟨found, t⟩
      have hlisted : searchBits 64 0 64 ((s.withListing b).passAt 0) = (found, t.withListing b) := by
        have hcommute := searchBits_withListing b 64 0 64 (s.passAt 0)
        rwa [hbits] at hcommute
      rw [searchPass_present hflag hbus hbits, searchPass_present (s := s.withListing b) hflag hbus hlisted]
      cases found <;> rfl

theorem owFindNext_withListing (b : Bool) (s : State) :
    owFindNext (s.withListing b) = ((owFindNext s).1, (owFindNext s).2.withListing b) := searchPass_withListing b s

theorem owFindNext_listing (s : State) : (owFindNext s).2.listing = s.listing := by
  obtain ⟨x, hbus, -⟩ := searchPass_busOnly s
  exact hbus.listing

theorem owFindNext_sendResult (s : State) : (owFindNext s).2.env.sendResult = s.env.sendResult :=
  (engineOp_wordless .owFindNext s).sendResult

/-- With a listing under way a step is one `find_next` and its record. -/
theorem step_of_listing {s : State} (hmode : s.mode = .ow) (hpending : s.pending = .none) (hlisting : s.listing = true) :
    step s = .next (listRecord ((owFindNext s).1, (owFindNext s).2.withListing false)) := by
  simp [step, fetch, hmode, hpending, hlisting, searchListNext, owFindNext_withListing]

/-- A step that does something and then sends, with the two outcomes of the `Send`. -/
theorem step_of_sendThen {s u : State} {bs : List Byte} {k : State → State} (h : step s = .next (sendThen bs k u))
    (hu : u.env.sendResult = s.env.sendResult) :
    (s.env.sendResult = .sent → step s = .next (k (u.sending bs .sent)))
      ∧ (s.env.sendResult ≠ .sent → step s = .next (transportFault (u.sending bs s.env.sendResult))) := by
  rw [h, ← hu]
  exact ⟨fun hsent => congrArg _ (sendThen_sent hsent), fun hfailed => congrArg _ (sendThen_failed hfailed)⟩

/-- Settles O33: the turn is one `find_next` and its record. Where an id is found the record sets the listing again, as it
was before the turn (`owFindNext_listing`). -/
theorem searchListingTurn : Obligations.SearchListingTurn := by
  intro s hmode hpending hlisting sentinel t
  have hstep := step_of_listing hmode hpending hlisting
  have hresult : t.env.sendResult = s.env.sendResult := owFindNext_sendResult s
  refine ⟨searchPass_exhausted, fun hfound => ?found, fun hnone => ?none⟩
  case found =>
    have hagain : t.withListing true = t := by
      rw [State.withListing, ← hlisting, ← owFindNext_listing s]
    rw [hfound, listRecord_found] at hstep
    obtain ⟨hsent, hfailed⟩ := step_of_sendThen hstep hresult
    refine ⟨fun h => (hsent h).trans ?_, hfailed⟩
    show Host.Outcome.next ((t.withListing true).sending (romBytes t.ow.rom) .sent) = _
    rw [hagain]
  case none =>
    rw [hnone, listRecord_end] at hstep
    exact step_of_sendThen hstep hresult

end Sys2Proof.Machine
end

section
/-! SUPPORT. The raw-wire engine in full (spec 42_rawwire.md R260-R273): its bits in both wire counts, its bytes in both
bit orders, and the commands that are one of its operations and a reply. -/

namespace Sys2Proof.Machine

/-! ### Driving DATA and sampling the input line (R262, R263) -/

theorem driveDataEvents_eq (x : RawSession) (l : Bool) : driveDataEvents x l = rawDrive x l := by
  unfold driveDataEvents rawDrive RawSession.openDrainFlag
  cases x.wireCount with
  | two => cases x.driveMode <;> rfl
  | three => rfl

theorem rawStart_eq (s : State) :
    rawStart s = s.after
      (rawDrive s.raw true ++ [.delay s.raw.halfBitDelayUs, .set .clk true, .delay s.raw.halfBitDelayUs]
        ++ rawDrive s.raw false ++ [.delay s.raw.halfBitDelayUs, .set .clk false, .delay s.raw.halfBitDelayUs]) 0 := by
  rw [rawStart, rawStartEvents, driveDataEvents_eq, driveDataEvents_eq, emit_eq_after]

theorem rawStop_eq (s : State) :
    rawStop s = s.after
      (rawDrive s.raw false ++ [.delay s.raw.halfBitDelayUs, .set .clk true, .delay s.raw.halfBitDelayUs]
        ++ rawDrive s.raw true ++ [.delay s.raw.halfBitDelayUs]) 0 := by
  rw [rawStop, rawStopEvents, driveDataEvents_eq, driveDataEvents_eq, emit_eq_after]

theorem rawData_eq (l : Bool) (s : State) : rawData l s = s.after (rawDrive s.raw l) 0 := by
  rw [rawData, driveDataEvents_eq, emit_eq_after]

theorem inPin_two {x : RawSession} (h : x.wireCount = .two) : x.inPin = .mosi := by
  simp [RawSession.inPin, h]

theorem inPin_three {x : RawSession} (h : x.wireCount = .three) : x.inPin = .miso := by
  simp [RawSession.inPin, h]

theorem exec_rawStart (s : State) : exec .rawStart s = .next (reply okByte (rawStart s)) := rfl

theorem exec_rawStop (s : State) : exec .rawStop s = .next (reply okByte (rawStop s)) := rfl

theorem exec_rawDatLow (s : State) : exec .rawDatLow s = .next (reply okByte (rawData false s)) := rfl

theorem exec_rawDatHigh (s : State) : exec .rawDatHigh s = .next (reply okByte (rawData true s)) := rfl

/-- Settles O37: each command is its engine operation and the ok byte; what drives DATA is `rawDrive`. -/
theorem rawConditionsAndLines : Obligations.RawConditionsAndLines := by
  intro s delay
  refine ⟨answers_of_reply ?start rfl, answers_of_reply ?stop rfl, answers_of_reply rfl rfl, answers_of_reply rfl rfl,
    answers_of_reply rfl rfl, answers_of_reply rfl rfl, answers_of_reply rfl rfl, answers_of_reply ?low rfl,
    answers_of_reply ?high rfl⟩
  case start => rw [exec_rawStart, rawStart_eq, okByte]
  case stop => rw [exec_rawStop, rawStop_eq, okByte]
  case low => rw [exec_rawDatLow, rawData_eq, okByte]
  case high => rw [exec_rawDatHigh, rawData_eq, okByte]

/-! ### Bits (R268, R269) -/

theorem rawReadBit_eq (s : State) : rawReadBit s = (s.level 0, s.after (rawBitIn s.raw (s.level 0)) 1) := by
  cases h : s.raw.wireCount with
  | two => simp [rawReadBit, getLevel_eq, releaseDataEvents, rawBitIn, inPin_two h, h]
  | three => simp [rawReadBit, getLevel_eq, releaseDataEvents, rawBitIn, inPin_three h, h]

/-- In 2-wire mode a written bit has no sample among its events. -/
theorem rawBitOut_two {x : RawSession} (h : x.wireCount = .two) (b l l' : Bool) :
    rawBitOut x b l = rawBitOut x b l' := by
  simp [rawBitOut, h]

/-- In 2-wire mode a written bit draws nothing. -/
theorem rawWriteBit_two {s : State} (h : s.raw.wireCount = .two) (b l : Bool) :
    rawWriteBit b s = (false, s.after (rawBitOut s.raw b l) 0) := by
  simp [rawWriteBit, driveDataEvents_eq, rawBitOut, h]

/-- In 3-wire mode a written bit answers the level of DATA-IN. -/
theorem rawWriteBit_three {s : State} (h : s.raw.wireCount = .three) (b : Bool) :
    rawWriteBit b s = (s.level 0, s.after (rawBitOut s.raw b (s.level 0)) 1) := by
  simp [rawWriteBit, getLevel_eq, driveDataEvents_eq, rawBitOut, h]

/-! ### Bytes in the configured bit order (R270, R271) -/

/-- Which sample is bit `j` of a raw byte. -/
def BitOrder.sampleOf (o : BitOrder) (j : Nat) : Nat :=
  match o with
  | .msbFirst => 7 - j
  | .lsbFirst => j

/-- Bits set in either order. -/
theorem setByteBits_rawOrder (x : RawSession) (f : Nat → Bool) :
    (rawOrder x).zipIdx.foldl (fun w ik => setByteBit w ik.1 (f ik.2)) 0#8
      = byteOf fun j => f (x.bitOrder.sampleOf j) := by
  unfold rawOrder
  cases x.bitOrder with
  | msbFirst => exact setByteBits_msbOrder f
  | lsbFirst => exact setByteBits_lsbOrder f

theorem rawOrder_length (x : RawSession) : (rawOrder x).length = 8 := by
  unfold rawOrder
  cases x.bitOrder <;> rfl

theorem indices_eq_rawOrder (x : RawSession) : x.bitOrder.indices = rawOrder x := by
  unfold rawOrder
  cases x.bitOrder <;> rfl

theorem rawReadByte_eq (s : State) :
    rawReadByte s = (byteOf fun j => s.level (s.raw.bitOrder.sampleOf j),
      s.after ((List.range 8).flatMap fun k => rawBitIn s.raw (s.level k)) 8) := by
  rw [rawReadByte, indices_eq_rawOrder,
    readBits_eq (P := fun t => t.raw = s.raw) (evs := rawBitIn s.raw) (fun t ht => by rw [rawReadBit_eq, ht])
      (fun _ _ _ h => h) (rawOrder s.raw) 0#8 s rfl,
    setByteBits_rawOrder, rawOrder_length]

/-- A byte exchanged bit by bit, where each bit is some events and `n` draws, of which the first may be its answer. -/
theorem exchangeBits_eq {write : Bool → State → Bool × State} {P : State → Prop} {evs : Bool → Bool → List Event}
    {answer : Bool → Bool} {n : Nat} (v : Byte)
    (hwrite : ∀ b t, P t → write b t = (answer (t.level 0), t.after (evs b (t.level 0)) n))
    (hP : ∀ t es n, P t → P (t.after es n)) :
    ∀ (is : List Nat) (r : Byte) (s : State), P s →
      exchangeBits write v is r s =
        (is.zipIdx.foldl (fun w ik => setByteBit w ik.1 (answer (s.level (n * ik.2)))) r,
          s.after (is.zipIdx.flatMap fun ik => evs (v.getLsbD ik.1) (s.level (n * ik.2))) (n * is.length)) := by
  intro is
  induction is with
  | nil => exact fun _ _ _ => rfl
  | cons i is ih =>
    intro r s hs
    have hnext (k : Nat) : n + n * k = n * (k + 1) := by rw [Nat.mul_succ, Nat.add_comm]
    simp only [exchangeBits, hwrite _ s hs]
    rw [ih _ _ (hP _ _ _ hs)]
    simp only [State.after_after, State.level_after, hnext, List.zipIdx_cons', List.foldl_cons, List.flatMap_cons,
      List.foldl_map, List.flatMap_map, List.length_cons, Nat.mul_zero, Prod.map, id]

/-- In 2-wire mode a written byte draws nothing and answers 0x01. -/
theorem rawWriteByte_two {s : State} (h : s.raw.wireCount = .two) (v : Byte) :
    rawWriteByte v s =
      (0x01#8,
        s.after ((rawOrder s.raw).zipIdx.flatMap fun jk => rawBitOut s.raw (v.getLsbD jk.1) (s.level jk.2)) 0) := by
  have hbits := exchangeBits_eq (write := rawWriteBit) (P := fun t => t.raw = s.raw) (evs := rawBitOut s.raw)
    (answer := fun _ => false) (n := 0) v (fun b t ht => by rw [rawWriteBit_two (ht ▸ h) b (t.level 0), ht])
    (fun _ _ _ h => h) (rawOrder s.raw) 0#8 s rfl
  have hunsampled : (fun jk : Nat × Nat => rawBitOut s.raw (v.getLsbD jk.1) (s.level (0 * jk.2)))
      = fun jk => rawBitOut s.raw (v.getLsbD jk.1) (s.level jk.2) :=
    funext fun jk => rawBitOut_two h _ _ _
  rw [rawWriteByte, indices_eq_rawOrder, hbits, if_pos h, hunsampled, Nat.zero_mul]

/-- In 3-wire mode a written byte answers its eight samples. -/
theorem rawWriteByte_three {s : State} (h : s.raw.wireCount = .three) (v : Byte) :
    rawWriteByte v s =
      (byteOf fun j => s.level (s.raw.bitOrder.sampleOf j),
        s.after ((rawOrder s.raw).zipIdx.flatMap fun jk => rawBitOut s.raw (v.getLsbD jk.1) (s.level jk.2)) 8) := by
  have hbits := exchangeBits_eq (write := rawWriteBit) (P := fun t => t.raw = s.raw) (evs := rawBitOut s.raw)
    (answer := id) (n := 1) v (fun b t ht => by rw [rawWriteBit_three (ht ▸ h), ht, id]) (fun _ _ _ h => h)
    (rawOrder s.raw) 0#8 s rfl
  simp only [Nat.one_mul, id, setByteBits_rawOrder, rawOrder_length] at hbits
  have hwires : s.raw.wireCount ≠ .two := by simp [h]
  rw [rawWriteByte, indices_eq_rawOrder, hbits, if_neg hwires]

/-! ### The reads and the payload byte (R286-R288, R294) -/

theorem rawPeek_eq (s : State) : rawPeek s = (s.level 0, s.after [.get s.raw.inPin (s.level 0)] 1) := rfl

theorem exec_rawReadByte (s : State) :
    exec .rawReadByte s = .next (reply [(rawReadByte s).1] (rawReadByte s).2) := rfl

theorem exec_rawReadBit (s : State) :
    exec .rawReadBit s = .next (reply [bitByte (rawReadBit s).1] (rawReadBit s).2) := rfl

theorem exec_rawPeek (s : State) : exec .rawPeek s = .next (reply [bitByte (rawPeek s).1] (rawPeek s).2) := rfl

/-- Settles O38: the byte, the bit and the sample in full (`rawReadByte_eq`, `rawReadBit_eq`, `rawPeek_eq`), each with
its reply. -/
theorem rawReadsInConfiguredOrder : Obligations.RawReadsInConfiguredOrder := by
  intro s answer line
  have hline : s.raw.inPin = line := by
    unfold line
    cases h : s.raw.wireCount with
    | two => exact inPin_two h
    | three => exact inPin_three h
  refine ⟨answers_of_reply ?byte rfl, answers_of_reply ?bit rfl, answers_of_reply ?peek rfl⟩
  case byte =>
    rw [exec_rawReadByte, rawReadByte_eq]
    rfl
  case bit =>
    rw [exec_rawReadBit, rawReadBit_eq]
    rfl
  case peek =>
    rw [exec_rawPeek, rawPeek_eq, hline]
    rfl

/-- Settles O39: the payload byte's unit is the byte exchanged (`rawWriteByte_two`, `rawWriteByte_three`), with the two
outcomes of its `Send`. -/
theorem rawPayloadByteIsExchanged : Obligations.RawPayloadByteIsExchanged := by
  intro s k b rest hmode hlisting hpending hk hbytes t answered
  refine ⟨fun htwo => ?_, fun hthree => ?_⟩
  · exact step_of_bulk_outcomes (m := .raw) hmode hlisting hpending hk hbytes
      (rawWriteByte_two (s := s.withInbuf rest) htwo b)
  · exact step_of_bulk_outcomes (m := .raw) hmode hlisting hpending hk hbytes
      (rawWriteByte_three (s := s.withInbuf rest) hthree b)

end Sys2Proof.Machine
end

section
/-! SUPPORT. The debug-wire session (spec 43_debugwire.md R320-R344): the entry to debug mode, the check, the ready wait as
it is stated, the operations with an 8-bit result in full, what an operation leaves of the session, and the table patch;
each with the proxy's commands that run it (45_ccproxy.md R466-R480). -/

namespace Sys2Proof.Machine

/-! ### The replies to a latched error (R463) -/

/-- With an error latched the result of a command is not sent. -/
theorem proxyReply_latched {s : State} (h : s.dw.lastError ≠ .none) (success : List Byte) :
    proxyReply success s = reply (dwReply s.dw 0x00#8 0x00#8) s := by
  unfold proxyReply dwReply
  cases herror : s.dw.lastError with
  | none => exact absurd herror h
  | notActive | notDebugging | notWired => rfl

/-- The reply's event is the last one, whatever becomes of the `Send`. -/
theorem reply_trace (bs : List Byte) (s : State) : (reply bs s).trace = .send bs s.env.sendResult :: s.trace := by
  rcases reply_cases bs s with ⟨hsent, h⟩ | ⟨-, h⟩
  · rw [h, hsent, State.sending_trace]
  · rw [h, transportFault_trace, State.sending_trace]

/-! ### The commands of the proxy that run a debug operation (R466-R480) -/

theorem exec_ccEnter (a0 a1 a2 : Byte) (s : State) :
    exec (.ccEnter a0 a1 a2) s = .next (proxyReply ok0 (dwEnter s)) := rfl

theorem exec_ccExit (a0 a1 a2 : Byte) (s : State) :
    exec (.ccExit a0 a1 a2) s = .next (proxyReply8 (dwExit s)) := rfl

/-- The ten byte commands are their debug operation and its reply. -/
theorem exec_byteCommand {i : Instr} {slot : Fin 16} {args : List Byte} (h : byteCommand i = some (slot, args))
    (s : State) : exec i s = .next (proxyReply8 (dwOp8 slot args s)) := by
  unfold byteCommand at h
  split at h <;> cases h <;> rfl

theorem dwExit_eq (s : State) :
    dwExit s = ((dwOp8 2 [] s).1, (dwOp8 2 [] s).2.withDw { (dwOp8 2 [] s).2.dw with inDebug := false }) := rfl

/-! ### Entry to debug mode (R323) -/

theorem dwEnter_active {s : State} (h : s.dw.active = true) :
    dwEnter s = (s.withDw { s.dw with inDebug := true, lastError := .none }).after (dwEnterEvents s.dw) 0 := by
  simp [dwEnter, h]

theorem dwEnter_inactive {s : State} (h : s.dw.active = false) : dwEnter s = latchError .notActive s := by
  rw [dwEnter, if_pos h]

/-- Settles O42: an active session enters debug mode with no error left to report, an inactive one reports the error it
latches. -/
theorem proxyEnterStartsDebugMode : Obligations.ProxyEnterStartsDebugMode := by
  intro s a0 a1 a2 pulse
  have hexec := exec_ccEnter a0 a1 a2 s
  refine ⟨fun hactive => ?_, fun hinactive => ?_⟩
  · rw [dwEnter_active hactive] at hexec
    exact answers_of_reply hexec rfl
  · rw [dwEnter_inactive hinactive] at hexec
    exact answers_of_reply hexec rfl

/-! ### The check (R324) -/

theorem dwCheck_inactive {s : State} (h : s.dw.active = false) : dwCheck s = (false, latchError .notActive s) := by
  rw [dwCheck, if_pos h]

theorem dwCheck_not_debugging {s : State} (hactive : s.dw.active = true) (h : s.dw.inDebug = false) :
    dwCheck s = (false, latchError .notDebugging s) := by
  simp [dwCheck, hactive, h]

section FailedCheck

variable {s t : State} (h : dwCheck s = (false, t))

include h

/-- A request whose check fails does nothing more. -/
theorem dwRequest_of_failed_check (slot : Fin 16) (args : List Byte) : dwRequest slot args s = (false, t) := by
  simp only [dwRequest, h, Bool.false_eq_true, if_false]

theorem dwOp8_of_failed_check (slot : Fin 16) (args : List Byte) : dwOp8 slot args s = (0x00#8, t) := by
  simp only [dwOp8, dwRequest_of_failed_check h, Bool.false_eq_true, if_false]

theorem dwOp16_of_failed_check (slot : Fin 16) (args : List Byte) : dwOp16 slot args s = (0x0000#16, t) := by
  simp only [dwOp16, dwRequest_of_failed_check h, Bool.false_eq_true, if_false]

theorem dwExit_of_failed_check : dwExit s = (0x00#8, t.withDw { t.dw with inDebug := false }) := by
  rw [dwExit_eq, dwOp8_of_failed_check h]

/-- A debug command whose check fails is the reply of the error the check has latched. -/
theorem exec_of_failed_check {i : Instr} (hi : (byteCommand i).isSome = true ∨ (wordCommand i).isSome = true)
    (hlatched : t.dw.lastError ≠ .none) : exec i s = .next (reply (dwReply t.dw 0x00#8 0x00#8) t) := by
  rcases hi with hbyte | hword
  · obtain ⟨⟨slot, args⟩, hcommand⟩ := Option.isSome_iff_exists.mp hbyte
    rw [exec_byteCommand hcommand, dwOp8_of_failed_check h, proxyReply8, proxyReply_latched hlatched]
  · obtain ⟨slot, hcommand⟩ := Option.isSome_iff_exists.mp hword
    rw [exec_wordCommand hcommand, dwOp16_of_failed_check h, proxyReply16, proxyReply_latched hlatched]

end FailedCheck

/-- Settles O43: the command is the failed check and the reply of the error it latches; `CC.EXIT` then clears a debug bit
that can still be set only where the session was inactive. -/
theorem debugCommandsFailTheirCheck : Obligations.DebugCommandsFailTheirCheck := by
  intro i s a0 a1 a2
  refine ⟨fun hi => ⟨fun hinactive => ?inactive, fun hactive hdebug => ?notDebugging⟩, fun hinactive => ?exitInactive,
    fun hactive hdebug => ?exitNotDebugging, dwCheck_of_debug⟩
  case inactive => exact answers_of_reply (exec_of_failed_check (dwCheck_inactive hinactive) hi nofun) rfl
  case notDebugging => exact answers_of_reply (exec_of_failed_check (dwCheck_not_debugging hactive hdebug) hi nofun) rfl
  case exitInactive =>
    have hexec := exec_ccExit a0 a1 a2 s
    rw [dwExit_of_failed_check (dwCheck_inactive hinactive)] at hexec
    exact answers_of_reply hexec rfl
  case exitNotDebugging =>
    have hexec := exec_ccExit a0 a1 a2 s
    have hcleared : { (latchError .notDebugging s).dw with inDebug := false } = (latchError .notDebugging s).dw := by
      rw [← hdebug]
      rfl
    rw [dwExit_of_failed_check (dwCheck_not_debugging hactive hdebug), hcleared] at hexec
    exact answers_of_reply hexec rfl

/-! ### The ready wait (R326) -/

/-- Settles O47: the two outcomes of `switch_read`, each by the induction on the high samples of `dwWaitReady_rounds`. -/
theorem readyWaitIsBoundedBy255Rounds : Obligations.ReadyWaitIsBoundedBy255Rounds := fun _ =>
  ⟨fun _ => dwSwitchRead_ready, dwSwitchRead_neverReady⟩

/-- One of the two outcomes happens. -/
theorem ready_or_never (s : State) : (∃ k, s.readyAfter k) ∨ s.neverReady := by
  by_cases h : ∃ k, k < 255 ∧ s.level k = false
  · obtain ⟨hlt, hlow⟩ := Nat.find_spec h
    exact .inl ⟨Nat.find h, hlt, fun j hj => by simpa [hj.trans hlt] using Nat.find_min h hj, hlow⟩
  · exact .inr fun j hj => by simpa [hj] using not_exists.mp h j

/-! ### Operations with an 8-bit result in debug mode (R328, R341) -/

section InDebugMode

variable {s : State} (hactive : s.dw.active = true) (hdebug : s.dw.inDebug = true)

include hactive hdebug

theorem dwOp8_ready {k : Nat} (h : s.readyAfter k) (slot : Fin 16) (args : List Byte) :
    dwOp8 slot args s =
      (byteOf fun j => s.level (k + 8 - j),
        s.after (dwSent s.dw (s.dw.table[slot] :: args) ++ dwReady s.dw k
          ++ (List.range 8).flatMap fun j => dwBitIn s.dw (s.level (k + 1 + j))) (k + 9)) := by
  have hbyte : (byteOf fun j => s.level (k + 1 + (7 - j))) = byteOf fun j => s.level (k + 8 - j) :=
    byteOf_congr fun j hj => congrArg s.level (by omega)
  simp only [dwOp8, dwRequest_ready hactive hdebug h, if_true, dwReadByte_eq, State.after_after, State.after_dw,
    State.level_after, hbyte]

theorem dwOp8_neverReady (h : s.neverReady) (slot : Fin 16) (args : List Byte) :
    dwOp8 slot args s =
      (0x00#8, (s.withDw (dwUnwired s.dw)).after (dwSent s.dw (s.dw.table[slot] :: args) ++ dwGivesUp s.dw) 255) := by
  simp only [dwOp8, dwRequest_neverReady hactive hdebug h, Bool.false_eq_true, if_false]

end InDebugMode

/-- The reply of a byte: the error latched when it is read, else the byte. -/
theorem proxyReply8_eq (r : Byte × State) : proxyReply8 r = reply (dwReply r.2.dw r.1 0x00#8) r.2 :=
  proxyReply_dwReply r.1 0x00#8 r.2

/-- Settles O44: the debug operation in full (`dwOp8_ready`, `dwOp8_neverReady`), and the reply of its byte. -/
theorem debugCommandsAnswerTheTargetsByte : Obligations.DebugCommandsAnswerTheTargetsByte := by
  intro i slot args s hi hactive hdebug request
  have hexec := exec_byteCommand hi s
  rw [proxyReply8_eq] at hexec
  refine ⟨fun k hready => ?_, fun hnever => ?_⟩
  · rw [dwOp8_ready hactive hdebug hready] at hexec
    exact answers_of_reply hexec (State.after_sendResult s _ _)
  · rw [dwOp8_neverReady hactive hdebug hnever] at hexec
    exact answers_of_reply hexec (State.after_sendResult _ _ _)

/-- Settles O46: the resume in full, and then the debug bit cleared, on which the reply does not depend. -/
theorem proxyExitResumesAndLeavesDebugMode : Obligations.ProxyExitResumesAndLeavesDebugMode := by
  intro s a0 a1 a2 hactive hdebug request
  have hexec := exec_ccExit a0 a1 a2 s
  rw [proxyReply8_eq, dwExit_eq] at hexec
  refine ⟨fun k hready => ?_, fun hnever => ?_⟩
  · rw [dwOp8_ready hactive hdebug hready] at hexec
    exact answers_of_reply hexec (State.after_sendResult s _ _)
  · rw [dwOp8_neverReady hactive hdebug hnever] at hexec
    exact answers_of_reply hexec (State.after_sendResult _ _ _)

/-! ### What a debug operation leaves of the session (R344) -/

/-- The sessions a debug operation can leave behind: its check failed, its target was ready, or its target was not. -/
inductive DebugOutcome (d : DwSession) : DwSession → Prop where
  | inactive (hactive : d.active = false) : DebugOutcome d { d with lastError := .notActive }
  | notDebugging (hactive : d.active = true) (hdebug : d.inDebug = false) :
      DebugOutcome d { d with lastError := .notDebugging }
  | answered (hactive : d.active = true) (hdebug : d.inDebug = true) : DebugOutcome d d
  | unwired (hactive : d.active = true) (hdebug : d.inDebug = true) : DebugOutcome d (dwUnwired d)

theorem dwRequest_outcome (slot : Fin 16) (args : List Byte) (s : State) :
    DebugOutcome s.dw (dwRequest slot args s).2.dw := by
  cases hactive : s.dw.active with
  | false =>
    rw [dwRequest_of_failed_check (dwCheck_inactive hactive)]
    exact .inactive hactive
  | true =>
    cases hdebug : s.dw.inDebug with
    | false =>
      rw [dwRequest_of_failed_check (dwCheck_not_debugging hactive hdebug)]
      exact .notDebugging hactive hdebug
    | true =>
      rcases ready_or_never s with ⟨k, hready⟩ | hnever
      · rw [dwRequest_ready hactive hdebug hready]
        exact .answered hactive hdebug
      · rw [dwRequest_neverReady hactive hdebug hnever]
        exact .unwired hactive hdebug

/-- The bytes read after a request do not touch the session. -/
theorem dwOp8_outcome (slot : Fin 16) (args : List Byte) (s : State) : DebugOutcome s.dw (dwOp8 slot args s).2.dw := by
  have hrequest := dwRequest_outcome slot args s
  unfold dwOp8
  dsimp only
  split
  · rwa [(dwReadByte_busOnly _).dw]
  · exact hrequest

theorem dwOp16_outcome (slot : Fin 16) (args : List Byte) (s : State) : DebugOutcome s.dw (dwOp16 slot args s).2.dw := by
  have hrequest := dwRequest_outcome slot args s
  unfold dwOp16
  dsimp only
  split
  · rwa [(dwReadByte_busOnly _).dw, (dwReadByte_busOnly _).dw]
  · exact hrequest

/-- The table and the active bit are as they were, and an error is latched if one was, maybe another. -/
def LatchKept (d x : DwSession) : Prop :=
  x.active = d.active ∧ x.table = d.table ∧ (d.lastError ≠ .none → x.lastError ≠ .none)

theorem DebugOutcome.latchKept {d x : DwSession} (h : DebugOutcome d x) : LatchKept d x := by
  cases h with
  | inactive | notDebugging | unwired => exact ⟨rfl, rfl, fun _ => nofun⟩
  | answered => exact ⟨rfl, rfl, id⟩

theorem LatchKept.leaveDebug {d x : DwSession} (h : LatchKept d x) : LatchKept d { x with inDebug := false } := h

/-- A proxy reply that follows activity without transport and leaves the latch reports a latched error. -/
theorem proxyReply_reports {s u : State} (hquiet : Wordless s u) (hkept : LatchKept s.dw u.dw)
    (herror : s.dw.lastError ≠ .none) (success : List Byte) :
    (proxyReply success u).dw = u.dw
      ∧ (proxyReply success u).trace = .send (dwReply u.dw 0x00#8 0x00#8) s.env.sendResult :: u.trace := by
  obtain ⟨-, -, hlatched⟩ := hkept
  rw [proxyReply_latched (hlatched herror), reply_dw, reply_trace, hquiet.sendResult]
  exact ⟨rfl, rfl⟩

/-- What each debug command does before its reply keeps the latch. -/
theorem exec_debugCommand {i : Instr}
    (hi : (byteCommand i).isSome = true ∨ (wordCommand i).isSome = true ∨ ∃ a0 a1 a2, i = .ccExit a0 a1 a2)
    (s : State) : ∃ u success, exec i s = .next (proxyReply success u) ∧ Wordless s u ∧ LatchKept s.dw u.dw := by
  rcases hi with hbyte | hword | ⟨a0, a1, a2, rfl⟩
  · obtain ⟨⟨slot, args⟩, hcommand⟩ := Option.isSome_iff_exists.mp hbyte
    exact ⟨_, _, exec_byteCommand hcommand s, (EngineOnly.of_dwKept (dwOp8_busOnly slot args s)).wordless,
      (dwOp8_outcome slot args s).latchKept⟩
  · obtain ⟨slot, hcommand⟩ := Option.isSome_iff_exists.mp hword
    exact ⟨_, _, exec_wordCommand hcommand s, (EngineOnly.of_dwKept (dwOp16_busOnly slot [] s)).wordless,
      (dwOp16_outcome slot [] s).latchKept⟩
  · exact ⟨_, _, exec_ccExit a0 a1 a2 s, engineOp_wordless .dwExit s, (dwOp8_outcome 2 [] s).latchKept.leaveDebug⟩

/-- Settles O50: the operation keeps an error latched (`exec_debugCommand`), and the reply reports it
(`proxyReply_reports`). -/
theorem debugErrorsLatch : Obligations.DebugErrorsLatch := by
  intro i s hi herror
  obtain ⟨u, success, hexec, hquiet, hkept⟩ := exec_debugCommand hi s
  obtain ⟨hdw, htrace⟩ := proxyReply_reports hquiet hkept herror success
  obtain ⟨hactive, htable, hlatched⟩ := hkept
  refine ⟨proxyReply success u, u.trace, hexec, ?_⟩
  rw [hdw]
  exact ⟨hlatched herror, htrace, hactive, htable⟩

/-! ### The table patch (R342) -/

/-- A patch of the first `length` bytes, slot by slot. -/
theorem patchTable_take_get {bytes : List Byte} {length : Nat} (hlength : length ≤ bytes.length) (t : Vector Byte 16)
    (offset : Nat) (i : Fin 16) :
    (patchTable t offset (bytes.take length))[i] =
      if offset ≤ i.val ∧ i.val < offset + length then bytes.getD (i.val - offset) 0x00#8 else t[i] := by
  have htaken : (bytes.take length).length = length := List.length_take_of_le hlength
  refine (patchTable_get (bytes.take length) t offset i.val i.isLt).trans ?_
  by_cases hcovered : offset ≤ i.val ∧ i.val < offset + length
  · rw [dif_pos (by omega), if_pos hcovered, List.getElem_take, List.getD_eq_getElem _ _ (by omega)]
  · rw [dif_neg (by omega), if_neg hcovered]
    rfl

theorem dwUpdateTable_out_of_range {offset length : Nat} (h : 16 < offset + length) (bytes : List Byte) (s : State) :
    dwUpdateTable bytes offset length s = (s.dw.table[0], s) := by
  simp only [dwUpdateTable, if_pos h]
  rfl

theorem dwUpdateTable_in_range {offset length : Nat} (h : offset + length ≤ 16) (bytes : List Byte) (s : State) :
    dwUpdateTable bytes offset length s =
      ((patchTable s.dw.table offset (bytes.take length))[0],
        s.withDw { s.dw with table := patchTable s.dw.table offset (bytes.take length) }) := by
  simp only [dwUpdateTable, if_neg (Nat.not_lt.mpr h)]
  rfl

/-- Settles O48: beyond slot 15 nothing is written, and in range the patch is read slot by slot (`patchTable_take_get`). -/
theorem tablePatchIsBoundsChecked : Obligations.TablePatchIsBoundsChecked := by
  intro s bytes offset length hlength r
  refine ⟨rfl, fun hout => ?_, fun hin => ?_⟩
  · exact congrArg Prod.snd (dwUpdateTable_out_of_range hout bytes s)
  · exact ⟨_, congrArg Prod.snd (dwUpdateTable_in_range hin bytes s), patchTable_take_get hlength s.dw.table offset⟩

end Sys2Proof.Machine
end

section
/-! SUPPORT. What a step fetches (spec 44_bbio_framer.md R391, R395, R398, 45_ccproxy.md R461): with no command in progress
each mode decodes the bytes at hand, and with nothing to consume it receives. -/

namespace Sys2Proof.Machine

/-! ### What a step does with what it fetched -/

theorem step_of_run {s t : State} {i : Instr} (h : fetch s = .run i t) : step s = exec i t := by
  rw [step, h]

theorem step_of_idle {s t : State} (h : fetch s = .idle t) : step s = .next t := by
  rw [step, h]

section NoCommand

variable {s : State} (hlisting : s.listing = false) (hpending : s.pending = .none)
include hlisting hpending

theorem fetch_select (hmode : s.mode = .select) : fetch s = fetchSelect s := by
  simp [fetch, hlisting, hpending, hmode]

theorem fetch_bitBang (hmode : s.mode.bitBang = true) : fetch s = fetchOpcode s := by
  cases hm : s.mode with
  | bbio | i2c | ow | raw => simp [fetch, hlisting, hpending, hm]
  | select | ccproxy | shell => simp [hm, Mode.bitBang] at hmode

theorem fetch_ccproxy (hmode : s.mode = .ccproxy) : fetch s = fetchFrame s := by
  simp [fetch, hlisting, hpending, hmode]

end NoCommand

theorem fetchOpcode_of_decode {s : State} {i : Instr} {rest : List Byte}
    (h : decode ⟨s.mode, false⟩ s.inbuf = .ok (i, rest)) : fetchOpcode s = .run i (s.withInbuf rest) := by
  rw [fetchOpcode, h]

theorem fetchFrame_of_decode {s : State} {i : Instr} {rest : List Byte}
    (h : decode ⟨.ccproxy, false⟩ s.acc = .ok (i, rest)) : fetchFrame s = .run i (s.withAcc rest) := by
  rw [fetchFrame, h]

/-- `SELECT` decodes one byte, whatever follows it (R136). -/
theorem decode_select {leading : Bool} {bytes rest : List Byte} {i : Instr}
    (h : decode ⟨.select, leading⟩ bytes = .ok (i, rest)) :
    ∃ b, bytes = b :: rest ∧ i = decodeSelect leading b := by
  cases bytes with
  | nil => cases h
  | cons b bs => cases h; exact ⟨b, rfl, rfl⟩

theorem fetchSelect_byte {s : State} {b : Byte} {rest : List Byte} (h : s.inbuf = b :: rest) :
    fetchSelect s = .run (decodeSelect false b) (s.withInbuf rest) := by
  simp [fetchSelect, h]

theorem receive_cons {s : State} {r : RecvResult} {more : List RecvResult} (h : s.env.rx = r :: more) :
    receive s = some (r, s.received r more) := by
  rw [receive, h]
  rfl

theorem receive_nil {s : State} (h : s.env.rx = []) : receive s = none := by
  rw [receive, h]

/-- The selector with no byte at hand (R391). -/
theorem fetchSelect_chunk {s : State} {b : Byte} {bs : List Byte} {more : List RecvResult} (hbytes : s.inbuf = [])
    (hrx : s.env.rx = .chunk b bs :: more) :
    fetchSelect s = .run (decodeSelect s.firstChunk b)
      (((s.received (.chunk b bs) more).withInbuf bs).withFirstChunk false) := by
  simp [fetchSelect, hbytes, receive_cons hrx]

/-- Settles O5: the fetch of each mode hands over the decoded command with its bytes consumed. -/
theorem stepRunsTheDecodedInstruction : Obligations.StepRunsTheDecodedInstruction := by
  intro s i rest hlisting hpending
  refine ⟨fun hmode hdecode => ?byte, fun hmode hdecode => ?frame, fun b bs more hmode hbytes hrx hdecode => ?chunk⟩
  case byte =>
    rcases hmode with hmode | hmode
    · exact step_of_run ((fetch_bitBang hlisting hpending hmode).trans (fetchOpcode_of_decode hdecode))
    · rw [hmode] at hdecode
      obtain ⟨b, hbytes, rfl⟩ := decode_select hdecode
      exact step_of_run ((fetch_select hlisting hpending hmode).trans (fetchSelect_byte hbytes))
  case frame => exact step_of_run ((fetch_ccproxy hlisting hpending hmode).trans (fetchFrame_of_decode hdecode))
  case chunk =>
    obtain ⟨b', hchunk, rfl⟩ := decode_select hdecode
    obtain ⟨rfl, rfl⟩ := List.cons.inj hchunk
    exact step_of_run ((fetch_select hlisting hpending hmode).trans (fetchSelect_chunk hbytes hrx))

/-! ### Waiting for input (R394, R395, R461) -/

theorem step_of_selfTest {s : State} (hmode : s.mode = .bbio) (hpending : s.pending = .selfTest)
    (hlisting : s.listing = false) : step s = .next (withNextByte (fun _ t => selfTestClose t) s) := by
  simp [step, fetch, hlisting, hpending, hmode]

theorem withNextByte_nil {s : State} (h : s.inbuf = []) (k : Byte → State → State) :
    withNextByte k s = awaitInbuf s := by
  rw [withNextByte, h]

theorem withNextByte_cons {s : State} {b : Byte} {rest : List Byte} (h : s.inbuf = b :: rest)
    (k : Byte → State → State) : withNextByte k s = k b (s.withInbuf rest) := by
  rw [withNextByte, h]

theorem withNextAccByte_nil {s : State} (h : s.acc = []) (k : Byte → State → State) :
    withNextAccByte k s = awaitAcc s := by
  rw [withNextAccByte, h]

/-- The command in progress belongs to the mode (R35). -/
theorem commandOk_iff {s : State} (hlisting : s.listing = false) :
    s.commandOk = true ↔ s.pending.belongsTo s.mode := by
  cases hpending : s.pending <;> simp [State.commandOk, Pending.belongsTo, hlisting, hpending, and_assoc]

theorem waits_bitBang {s : State} (hmode : s.mode.bitBang = true) :
    s.waits = true ↔ (s.commandOk = true ∧ s.listing = false) ∧ s.inbuf = [] := by
  cases hm : s.mode with
  | bbio | i2c | ow | raw => simp [State.waits, hm]
  | select | ccproxy | shell => simp [hm, Mode.bitBang] at hmode

theorem waits_mode {s : State} (h : s.waits = true) : s.mode.bitBang = true ∨ s.mode = .ccproxy := by
  cases hm : s.mode with
  | bbio | i2c | ow | raw => exact .inl rfl
  | ccproxy => exact .inr rfl
  | select | shell => simp [State.waits, hm] at h

/-- With no byte at hand, every part of a bit-bang mode's framer receives (R395). -/
theorem step_waiting_bitBang {s : State} (hmode : s.mode.bitBang = true) (hwaits : s.waits = true) :
    step s = .next (awaitInbuf s) := by
  obtain ⟨⟨hok, hlisting⟩, hbytes⟩ := (waits_bitBang hmode).mp hwaits
  have hbelongs := (commandOk_iff hlisting).mp hok
  cases hpending : s.pending with
  | none =>
    refine step_of_idle ((fetch_bitBang hlisting hpending hmode).trans ?_)
    rw [fetchOpcode, hbytes, decode_bitBang_nil hmode]
  | bulk m k =>
    rw [hpending] at hbelongs
    obtain ⟨hm, hk⟩ := hbelongs
    refine step_of_idle ?_
    simp [fetch, hlisting, hpending, hm, hk, withNextByte_nil hbytes]
  | selfTest =>
    rw [hpending] at hbelongs
    rw [step_of_selfTest hbelongs hpending hlisting, withNextByte_nil hbytes]
  | upload off =>
    rw [hpending] at hbelongs
    rw [show s.mode = .ccproxy from hbelongs] at hmode
    cases hmode

theorem decode_short_frame {acc : List Byte} (h : acc.length < 4) :
    decode ⟨.ccproxy, false⟩ acc = .error .shortFrame := by
  match acc with
  | [] | [_] | [_, _] | [_, _, _] => rfl
  | _ :: _ :: _ :: _ :: rest => simp at h; omega

/-- With no whole frame at hand, or in an upload no byte, the proxy receives (R461, R464). -/
theorem step_waiting_ccproxy {s : State} (hmode : s.mode = .ccproxy) (hwaits : s.waits = true) :
    step s = .next (awaitAcc s) := by
  simp only [State.waits, hmode, Bool.and_eq_true, Bool.not_eq_true'] at hwaits
  obtain ⟨⟨hok, hlisting⟩, hbytes⟩ := hwaits
  have hbelongs := (commandOk_iff hlisting).mp hok
  rw [hmode] at hbelongs
  cases hpending : s.pending with
  | none =>
    simp only [hpending, if_true, decide_eq_true_eq] at hbytes
    refine step_of_idle ((fetch_ccproxy hlisting hpending hmode).trans ?_)
    rw [fetchFrame, decode_short_frame hbytes]
  | bulk m k =>
    rw [hpending] at hbelongs
    obtain ⟨hm, -⟩ := hbelongs
    cases m <;> cases hm
  | selfTest =>
    rw [hpending] at hbelongs
    cases hbelongs
  | upload off =>
    simp [hpending] at hbytes
    refine step_of_idle ?_
    simp [fetch, hlisting, hpending, hmode, withNextAccByte_nil hbytes]

/-- The three results of a receive in a bit-bang mode (R394, R395). -/
theorem awaitInbuf_received {s : State} {r : RecvResult} {more : List RecvResult} (h : s.env.rx = r :: more) :
    awaitInbuf s =
      match r with
      | .chunk b bs => (s.received r more).withInbuf (b :: bs)
      | .timeout => s.received r more
      | .disconnect => transportFault (s.received r more) := by
  unfold awaitInbuf
  rw [receive_cons h]
  cases r <;> rfl

theorem awaitInbuf_nil {s : State} (h : s.env.rx = []) : awaitInbuf s = s := by
  rw [awaitInbuf, receive_nil h]

/-- The three results of a receive in the debug proxy (R461, R464). -/
theorem awaitAcc_received {s : State} {r : RecvResult} {more : List RecvResult} (h : s.env.rx = r :: more) :
    awaitAcc s =
      match r with
      | .chunk b bs => (s.received r more).withAcc (s.acc ++ b :: bs)
      | .timeout => s.received r more
      | .disconnect => transportFault (s.received r more) := by
  unfold awaitAcc
  rw [receive_cons h]
  cases r <;> rfl

theorem awaitAcc_nil {s : State} (h : s.env.rx = []) : awaitAcc s = s := by
  rw [awaitAcc, receive_nil h]

theorem fetchSelect_nil {s : State} (hbytes : s.inbuf = []) (hrx : s.env.rx = []) : fetchSelect s = .idle s := by
  simp [fetchSelect, hbytes, receive_nil hrx]

theorem fetchSelect_timeout {s : State} {more : List RecvResult} (hbytes : s.inbuf = [])
    (hrx : s.env.rx = .timeout :: more) : fetchSelect s = .idle (s.received .timeout more) := by
  simp [fetchSelect, hbytes, receive_cons hrx]

theorem fetchSelect_disconnect {s : State} {more : List RecvResult} (hbytes : s.inbuf = [])
    (hrx : s.env.rx = .disconnect :: more) :
    fetchSelect s = .idle (((s.received .disconnect more).withFirstChunk true).withZeroRun 0) := by
  simp [fetchSelect, hbytes, receive_cons hrx]

/-- Settles O6: in a bit-bang mode the step is `awaitInbuf`, in the proxy `awaitAcc`, in `SELECT` the fetch without a
byte at hand. -/
theorem waitingStepReceives : Obligations.WaitingStepReceives := by
  intro s more b bs received
  refine ⟨fun hwaits => ?_, fun hmode hpending hlisting hbytes => ?select⟩
  case select =>
    have hfetch := fetch_select hlisting hpending hmode
    exact ⟨fun hrx => step_of_idle (hfetch.trans (fetchSelect_nil hbytes hrx)),
      fun hrx => step_of_idle (hfetch.trans (fetchSelect_timeout hbytes hrx)),
      fun hrx => step_of_idle (hfetch.trans (fetchSelect_disconnect hbytes hrx))⟩
  rcases waits_mode hwaits with hmode | hmode
  case inl =>
    obtain ⟨-, hproxy, -⟩ := Mode.not_of_bitBang hmode
    rw [step_waiting_bitBang hmode hwaits, if_neg hproxy]
    exact ⟨fun hrx => congrArg _ (awaitInbuf_nil hrx), fun hrx => congrArg _ (awaitInbuf_received hrx),
      fun hrx => congrArg _ (awaitInbuf_received hrx), fun hrx => congrArg _ (awaitInbuf_received hrx)⟩
  case inr =>
    rw [step_waiting_ccproxy hmode hwaits, if_pos hmode]
    exact ⟨fun hrx => congrArg _ (awaitAcc_nil hrx), fun hrx => congrArg _ (awaitAcc_received hrx),
      fun hrx => congrArg _ (awaitAcc_received hrx), fun hrx => congrArg _ (awaitAcc_received hrx)⟩

end Sys2Proof.Machine
end

section
/-! SUPPORT. The selector (spec 44_bbio_framer.md R391-R393, 45_ccproxy.md R460) and the commands that more than one
bit-bang mode shares (R405, R406, R411, R413, R415). -/

namespace Sys2Proof.Machine

/-! ### The selector -/

theorem exec_selOther (b : Byte) (s : State) : exec (.selOther b) s = .next (s.withZeroRun 0) := rfl

theorem exec_selZero_counts {s : State} (h : s.zeroRun + 1 < 20) :
    exec .selZero s = .next (s.withZeroRun (s.zeroRun + 1)) := by
  have hexec : exec .selZero s = execSelZero s := rfl
  rw [hexec, execSelZero, Config.zeroRun, if_pos h]

theorem exec_selZero_enters {s : State} (h : 20 ≤ s.zeroRun + 1) :
    exec .selZero s = .next (reply bbioName ((s.withZeroRun 0).withMode .bbio)) := by
  have hexec : exec .selZero s = execSelZero s := rfl
  rw [hexec, execSelZero, Config.zeroRun, if_neg (Nat.not_lt.mpr h)]

/-- Settles O11: the two outcomes of a zero, and the byte that ends a run. -/
theorem selectorCountsZeros : Obligations.SelectorCountsZeros := fun s b =>
  ⟨exec_selOther b s, exec_selZero_counts, fun h => answers_of_reply (exec_selZero_enters h) rfl⟩

/-- In `SELECT` a zero at hand is a step of its own. -/
theorem step_of_zero {s : State} {rest : List Byte} (hmode : s.mode = .select) (hpending : s.pending = .none)
    (hlisting : s.listing = false) (hbytes : s.inbuf = 0x00#8 :: rest) :
    step s = exec .selZero (s.withInbuf rest) :=
  step_of_run ((fetch_select hlisting hpending hmode).trans (fetchSelect_byte hbytes))

/-- The zeros that are missing to 20, the last of which enters `BBIO`. -/
theorem runs_missing_zeros (rest : List Byte) (n : Nat) :
    ∀ s : State, s.mode = .select → s.pending = .none → s.listing = false → s.zeroRun + (n + 1) = 20 →
      s.inbuf = List.replicate (n + 1) 0x00#8 ++ rest → s.env.sendResult = .sent →
      Runs (n + 1) s ((((s.withInbuf rest).withZeroRun 0).withMode .bbio).sending bbioName .sent) := by
  induction n with
  | zero =>
    intro s hmode hpending hlisting hcount hbytes hsent
    have hstep := step_of_zero (rest := rest) hmode hpending hlisting hbytes
    obtain ⟨henters, -⟩ :=
      answers_of_reply (s := s.withInbuf rest) (exec_selZero_enters (s := s.withInbuf rest) hcount.ge) rfl
    exact runs_succ (hstep.trans (henters hsent)) rfl
  | succ n ih =>
    intro s hmode hpending hlisting hcount hbytes hsent
    have hstep := step_of_zero hmode hpending hlisting hbytes
    rw [exec_selZero_counts (s := s.withInbuf _) (by rw [State.withInbuf_zeroRun]; omega)] at hstep
    refine runs_succ hstep (ih _ hmode hpending hlisting ?_ rfl hsent)
    show s.zeroRun + 1 + (n + 1) = 20
    omega

/-- Settles O12: the induction over the missing zeros is `runs_missing_zeros`. -/
theorem twentyZerosEnterBbio : Obligations.TwentyZerosEnterBbio := by
  intro s z rest hmode hpending hlisting hz hcount hbytes hsent
  obtain ⟨n, hn⟩ : ∃ n, 20 - z = n + 1 := ⟨19 - z, by omega⟩
  rw [hn] at hbytes ⊢
  exact runs_missing_zeros rest n s hmode hpending hlisting (by omega) hbytes hsent

theorem exec_selCcproxy (s : State) :
    exec .selCcproxy s = .next (ccproxyEnter ((s.withAcc (0xF0#8 :: s.inbuf)).withMode .ccproxy)) := rfl

theorem exec_selShell (s : State) :
    exec .selShell s = .next (emit [.toShell] ((s.withInbuf []).withMode .shell)) := rfl

theorem ccproxyEnter_active {s : State} (h : s.dw.active = true) : ccproxyEnter s = s.withInbuf [] := by
  simp [ccproxyEnter, h]

theorem ccproxyEnter_inactive {s : State} (h : s.dw.active = false) :
    ccproxyEnter s = dwInit Config.dwResetPin Config.dwClockPin Config.dwDataPin (s.withInbuf []) := by
  simp [ccproxyEnter, h]

/-- Settles O13: `dw.init` runs exactly where the session is not active. -/
theorem leadingBytesSelectProxyOrShell : Obligations.LeadingBytesSelectProxyOrShell := by
  intro s
  refine ⟨exec_selShell s, fun hactive => ?_, fun hinactive => ?_⟩
  · rw [exec_selCcproxy, ccproxyEnter_active (s := (s.withAcc (0xF0#8 :: s.inbuf)).withMode .ccproxy) hactive]
    rfl
  · rw [exec_selCcproxy, ccproxyEnter_inactive (s := (s.withAcc (0xF0#8 :: s.inbuf)).withMode .ccproxy) hinactive]
    rfl

/-! ### The self-test and the commands the sub-modes share -/

/-- Settles O16: the closing byte is consumed before its reply, so that a failed `Send` loses it. -/
theorem selfTestExchange : Obligations.SelfTestExchange := by
  intro s
  refine ⟨answers_of_sendThen rfl rfl, answers_of_sendThen rfl rfl, fun b rest hmode hpending hlisting hbytes => ?_⟩
  have hstep := step_of_selfTest hmode hpending hlisting
  rw [withNextByte_cons hbytes] at hstep
  exact step_of_sendThen (u := (s.withInbuf rest).withPending .none) hstep rfl

/-- Settles O19: the four are one reply. -/
theorem unknownOpcodesAnswerZero : Obligations.UnknownOpcodesAnswerZero := fun _ _ =>
  ⟨answers_of_reply rfl rfl, answers_of_reply rfl rfl, answers_of_reply rfl rfl, answers_of_reply rfl rfl⟩

/-- Settles O20: the three are `subModeExit`, which writes the raw fields and the mode and then announces it. -/
theorem subModeExitReturnsToBbio : Obligations.SubModeExitReturnsToBbio := fun _ =>
  ⟨answers_of_reply rfl rfl, answers_of_reply rfl rfl, answers_of_reply rfl rfl⟩

/-- Settles O21: the three are `periph`, which does not read the bits w and x. -/
theorem peripheralCommandsDriveAuxAndCs : Obligations.PeripheralCommandsDriveAuxAndCs := fun _ _ _ _ _ =>
  ⟨answers_of_reply rfl rfl, answers_of_reply rfl rfl, answers_of_reply rfl rfl⟩

end Sys2Proof.Machine
end

section
/-! SUPPORT. Where the host's chunks end (spec 44_bbio_framer.md R395, R396, 20_memory.md R95). A state is split into
the host's side (the bytes at hand of the last chunk, the receives to come, the events so far) and the rest. No command
of a bit-bang mode reads the host's side, and none writes it but for its own events and, on the way out of the bit-bang
modes, the dropped input: so one part of the framer takes two states with the same rest to two with the same rest. -/

namespace Sys2Proof.Machine

/-! ### The host's side of a state -/

/-- The bytes at hand of the last chunk, the receives to come, and the events so far. -/
structure HostSide where
  bytes : List Byte
  rx : List RecvResult
  past : List Event

/-- The host's side of `s`. -/
def State.host (s : State) : HostSide := ⟨s.inbuf, s.env.rx, s.trace⟩

/-- `s` without the host's side. -/
def State.bare (s : State) : State := { s with inbuf := [], trace := [], env := { s.env with rx := [] } }

/-- `s` with the bytes at hand and the receives to come of `h`, and its events put after those of `h`. -/
def State.hosted (s : State) (h : HostSide) : State :=
  { s with inbuf := h.bytes, trace := s.trace ++ h.past, env := { s.env with rx := h.rx } }

theorem State.bare_hosted_host (s : State) : s.bare.hosted s.host = s := rfl

/-- The bytes of a received chunk. -/
def RecvResult.bytes : RecvResult → List Byte
  | .chunk b bs => b :: bs
  | .timeout => []
  | .disconnect => []

/-- The bytes the host has sent and no framer has consumed. -/
def HostSide.stream (h : HostSide) : List Byte := h.bytes ++ h.rx.flatMap RecvResult.bytes

theorem State.hostBytes_eq (s : State) : s.hostBytes = s.host.stream := by
  refine congrArg (s.inbuf ++ ·) (congrArg (s.env.rx.flatMap ·) (funext fun r => ?_))
  cases r <;> rfl

/-- The two hosts send the same bytes, in chunks that may end elsewhere, and the events but for `Recv`s are the same. -/
structure HostSide.Rechunked (h k : HostSide) : Prop where
  stream : h.stream = k.stream
  connected : .disconnect ∉ h.rx ∧ .disconnect ∉ k.rx
  past : h.past.filter (fun e => !e.isRecv) = k.past.filter (fun e => !e.isRecv)

theorem sameButChunks_iff {s u : State} : SameButChunks s u ↔ s.host.Rechunked u.host ∧ s.bare = u.bare := by
  rw [SameButChunks, s.hostBytes_eq, u.hostBytes_eq]
  exact ⟨fun ⟨hstream, hs, hu, hpast, hbare⟩ => ⟨⟨hstream, ⟨hs, hu⟩, hpast⟩, hbare⟩,
    fun ⟨⟨hstream, ⟨hs, hu⟩, hpast⟩, hbare⟩ => ⟨hstream, hs, hu, hpast, hbare⟩⟩

theorem hosted_trace_filter {h k : HostSide} (hsame : h.Rechunked k) (t : State) :
    (t.hosted h).trace.filter (fun e => !e.isRecv) = (t.hosted k).trace.filter (fun e => !e.isRecv) := by
  show (t.trace ++ h.past).filter _ = (t.trace ++ k.past).filter _
  rw [List.filter_append, List.filter_append, hsame.past]

theorem sameButChunks_hosted {h k : HostSide} (hsame : h.Rechunked k) (t : State) :
    SameButChunks (t.hosted h) (t.hosted k) :=
  sameButChunks_iff.mpr ⟨⟨hsame.stream, hsame.connected, hosted_trace_filter hsame t⟩, rfl⟩

theorem SameButChunks.trans {s t u : State} (h : SameButChunks s t) (k : SameButChunks t u) : SameButChunks s u := by
  obtain ⟨hbytes, hs, -, htrace, hrest⟩ := h
  obtain ⟨kbytes, -, hu, ktrace, krest⟩ := k
  exact ⟨hbytes.trans kbytes, hs, hu, htrace.trans ktrace, hrest.trans krest⟩

/-- A receive that is no disconnect moves the end of a chunk and nothing else. -/
theorem sameButChunks_awaitInbuf {s : State} (hbytes : s.inbuf = []) (hconnected : .disconnect ∉ s.env.rx) :
    SameButChunks (awaitInbuf s) s := by
  cases hrx : s.env.rx with
  | nil =>
    rw [awaitInbuf_nil hrx]
    exact ⟨rfl, hconnected, hconnected, rfl, rfl⟩
  | cons r more =>
    rw [awaitInbuf_received hrx]
    obtain ⟨hr, hmore⟩ := not_or.mp (mt List.mem_cons.mpr (hrx ▸ hconnected))
    cases r with
    | chunk b bs => exact ⟨by simp [State.hostBytes, hrx, hbytes, State.received], hmore, hconnected, rfl, rfl⟩
    | timeout => exact ⟨by simp [State.hostBytes, hrx, State.received], hmore, hconnected, rfl, rfl⟩
    | disconnect => exact absurd rfl hr

/-! ### Operations that do not read the host's side -/

/-- The value is computed without the host's side. -/
def HostFree {α : Type} (v : State → α) : Prop := ∀ s h, v (s.hosted h) = v s

/-- The operation neither reads nor writes the host's side, but for adding its events. -/
def HostBlind (f : State → State) : Prop := ∀ s h, f (s.hosted h) = (f s).hosted h

/-- `HostBlind` of an operation with a value. -/
def HostBlindOp {α : Type} (op : State → α × State) : Prop := ∀ s h, op (s.hosted h) = ((op s).1, (op s).2.hosted h)

theorem hosted_after (s : State) (h : HostSide) (es : List Event) (n : Nat) :
    (s.hosted h).after es n = (s.after es n).hosted h := by
  simp [State.hosted, State.after]

theorem hostBlind_emit {es : State → List Event} (hes : HostFree es) : HostBlind fun s => emit (es s) s := by
  intro s h
  dsimp only
  rw [hes s h, emit_eq_after, hosted_after, emit_eq_after]

theorem HostBlind.comp {f g : State → State} (hg : HostBlind g) (hf : HostBlind f) : HostBlind fun s => g (f s) := by
  intro s h
  dsimp only
  rw [hf s h, hg (f s) h]

theorem hostBlind_id : HostBlind fun s => s := fun _ _ => rfl

/-- An operation whose value and events are functions of the draws and the sessions. -/
theorem hostBlindOp_of_eq {α : Type} {op : State → α × State} {v : State → α} {es : State → List Event}
    {n : State → Nat} (hop : ∀ s, op s = (v s, s.after (es s) (n s))) (hv : HostFree v := by exact fun _ _ => rfl)
    (hes : HostFree es := by exact fun _ _ => rfl) (hn : HostFree n := by exact fun _ _ => rfl) : HostBlindOp op := by
  intro s h
  rw [hop, hop, hv s h, hes s h, hn s h, hosted_after]

theorem HostBlindOp.snd {α : Type} {op : State → α × State} (hop : HostBlindOp op) : HostBlind fun s => (op s).2 :=
  fun s h => congrArg Prod.snd (hop s h)

theorem HostBlindOp.comp {α : Type} {op : State → α × State} {f : State → State} (hop : HostBlindOp op)
    (hf : HostBlind f) : HostBlindOp fun s => op (f s) := by
  intro s h
  dsimp only
  rw [hf s h, hop (f s) h]

/-! ### The engines' operations -/

theorem i2cReadByte_hostBlind : HostBlindOp i2cReadByte :=
  hostBlindOp_of_eq i2cReadByte_eq

theorem i2cWriteByte_hostBlind (v : Byte) : HostBlindOp (i2cWriteByte v) :=
  hostBlindOp_of_eq (i2cWriteByte_eq v)

theorem owReset_hostBlind (nowait : Bool) : HostBlindOp (owReset nowait) :=
  hostBlindOp_of_eq (owReset_eq nowait)

theorem owReadByte_hostBlind : HostBlindOp owReadByte :=
  hostBlindOp_of_eq owReadByte_eq

theorem owWriteByte_hostBlind (v : Byte) : HostBlind (owWriteByte v) := by
  intro s h
  rw [owWriteByte_eq, owWriteByte_eq, hosted_after]
  rfl

theorem rawReadBit_hostBlind : HostBlindOp rawReadBit :=
  hostBlindOp_of_eq rawReadBit_eq

theorem rawPeek_hostBlind : HostBlindOp rawPeek :=
  hostBlindOp_of_eq rawPeek_eq

theorem rawReadByte_hostBlind : HostBlindOp rawReadByte :=
  hostBlindOp_of_eq rawReadByte_eq

theorem rawWriteByte_hostBlind (v : Byte) : HostBlindOp (rawWriteByte v) := by
  intro s h
  cases hwires : s.raw.wireCount with
  | two =>
    rw [rawWriteByte_two hwires, rawWriteByte_two (s := s.hosted h) hwires, hosted_after]
    rfl
  | three =>
    rw [rawWriteByte_three hwires, rawWriteByte_three (s := s.hosted h) hwires, hosted_after]
    rfl

theorem bulkUnit_hostBlind (m : BulkMode) (b : Byte) : HostBlindOp (bulkUnit m b) := by
  intro s h
  cases m with
  | i2c => simp only [bulkUnit, i2cWriteByte_hostBlind b s h]
  | ow => simp only [bulkUnit, owWriteByte_hostBlind b s h]
  | raw => exact rawWriteByte_hostBlind b s h

theorem searchBits_hostBlind (n : Nat) : ∀ k lastZero : Nat, HostBlindOp (searchBits n k lastZero) := by
  induction n with
  | zero => exact fun _ _ _ _ => rfl
  | succ n ih =>
    intro k lastZero s h
    by_cases hnone : s.level 0 = true ∧ s.level 1 = true
    · rw [searchBits_unanswered hnone, searchBits_unanswered (s := s.hosted h) hnone, hosted_after]
      rfl
    · rw [searchBits_answered hnone rfl, searchBits_answered (s := s.hosted h) hnone rfl, ← ih, ← hosted_after]
      rfl

theorem searchPass_hostBlind : HostBlindOp searchPass := by
  intro s h
  cases hflag : s.ow.lastDeviceFlag with
  | true => rw [searchPass_exhausted hflag, searchPass_exhausted (s := s.hosted h) hflag]
  | false =>
    cases hbus : s.level 0 with
    | true =>
      rw [searchPass_empty hflag hbus, searchPass_empty (s := s.hosted h) hflag hbus, hosted_after]
      rfl
    | false =>
      have hstart : (s.hosted h).passAt 0 = (s.passAt 0).hosted h :=
        hosted_after (s.withOw { s.ow with rom := s.ow.rom }) h _ _
      rcases hbits : searchBits 64 0 64 (s.passAt 0) with ⟨found, t⟩
      have hhosted : searchBits 64 0 64 ((s.hosted h).passAt 0) = (found, t.hosted h) := by
        rw [hstart, searchBits_hostBlind 64 0 64 (s.passAt 0) h, hbits]
      rw [searchPass_present hflag hbus hbits, searchPass_present (s := s.hosted h) hflag hbus hhosted]
      cases found <;> rfl

theorem owFindFirst_hostBlind (cmd : SearchCommand) : HostBlindOp (owFindFirst cmd) :=
  searchPass_hostBlind.comp fun _ _ => rfl

theorem readLevels_hostBlind (r : Byte) : HostBlindOp (readLevels bbioPins r) :=
  hostBlindOp_of_eq (readLevels_bbioPins r)

theorem owFindNext_hostBlind : HostBlindOp owFindNext := searchPass_hostBlind

/-! ### What the parts of a bit-bang framer do to the host's side -/

/-- `t'` is `t` with the host's side `h`, whose bytes may be dropped on the way out of the bit-bang modes (R529). -/
def HostKept (h : HostSide) (t t' : State) : Prop :=
  ∃ bytes, t' = t.hosted { h with bytes := bytes } ∧ (t.mode.bitBang = true → bytes = h.bytes)

/-- The operation does not read the host's side, and keeps it as long as it stays in the bit-bang modes. -/
def KeepsHost (f : State → State) : Prop := ∀ s h, HostKept h (f s) (f (s.hosted h))

theorem HostBlind.keepsHost {f : State → State} (hf : HostBlind f) : KeepsHost f :=
  fun s h => ⟨h.bytes, hf s h, fun _ => rfl⟩

/-- A failed `Send` drops the input, and leaves the bit-bang modes. -/
theorem hostKept_sendThen {k : State → State} (hk : KeepsHost k) (bs : List Byte) (h : HostSide) (u : State) :
    HostKept h (sendThen bs k u) (sendThen bs k (u.hosted h)) := by
  by_cases hsent : u.env.sendResult = .sent
  · rw [sendThen_sent hsent, sendThen_sent (s := u.hosted h) hsent]
    exact hk (u.sending bs .sent) h
  · rw [sendThen_failed hsent, sendThen_failed (s := u.hosted h) hsent]
    exact ⟨[], rfl, nofun⟩

theorem keepsHost_sendThen {bs : List Byte} {k : State → State} (hk : KeepsHost k) : KeepsHost (sendThen bs k) :=
  fun u h => hostKept_sendThen hk bs h u

theorem keepsHost_reply {bs : List Byte} {u : State → State} (hu : HostBlind u) :
    KeepsHost fun s => reply bs (u s) := by
  intro s h
  dsimp only
  rw [hu s h]
  exact hostKept_sendThen hostBlind_id.keepsHost bs h (u s)

/-- An operation and then a `Send` of what it answers. -/
theorem keepsHost_answer {α : Type} {op : State → α × State} (hop : HostBlindOp op) (bs : α → List Byte)
    {k : State → State} (hk : KeepsHost k) : KeepsHost fun s => sendThen (bs (op s).1) k (op s).2 := by
  intro s h
  dsimp only
  rw [hop s h]
  exact hostKept_sendThen hk _ h _

theorem keepsHost_replyValue {α : Type} {op : State → α × State} (hop : HostBlindOp op) (bs : α → List Byte) :
    KeepsHost fun s => reply (bs (op s).1) (op s).2 := keepsHost_answer hop bs hostBlind_id.keepsHost

theorem keepsHost_record {op : State → Bool × State} (hop : HostBlindOp op) : KeepsHost fun s => listRecord (op s) := by
  intro s h
  dsimp only
  rw [hop s h]
  rcases op s with ⟨found, u⟩
  cases found with
  | true =>
    rw [listRecord_found]
    exact hostKept_sendThen (HostBlind.keepsHost fun _ _ => rfl) _ h u
  | false =>
    rw [listRecord_end]
    exact keepsHost_reply (u := (·.withListing false)) (fun _ _ => rfl) u h

theorem keepsHost_withPending (p : Pending) : KeepsHost (·.withPending p) := HostBlind.keepsHost fun _ _ => rfl

/-- The shell takes no input (R404). -/
theorem keepsHost_enterShell : KeepsHost fun t => emit [.toShell] ((t.withInbuf []).withMode .shell) :=
  fun _ _ => ⟨[], rfl, nofun⟩

theorem keepsHost_subModeExit : KeepsHost subModeExit :=
  keepsHost_reply
    (u := fun s => (s.withRaw (if s.mode = .raw then rawDefaults else s.raw)).withMode .bbio) fun _ _ => rfl

theorem keepsHost_periph (y z : Bool) : KeepsHost (periph y z) := keepsHost_reply (hostBlind_emit fun _ _ => rfl)

/-- Every command of the bit-bang modes. -/
theorem exec_keepsHost {i : Instr} (hi : i.context.mode.bitBang = true) :
    ∃ f, (∀ s, exec i s = .next (f s)) ∧ KeepsHost f := by
  have hevents {bs : List Byte} {es : State → List Event} (hes : HostFree es) :
      KeepsHost fun s => reply bs (emit (es s) s) := keepsHost_reply (hostBlind_emit hes)
  cases i with
  | bbI2c => exact ⟨_, exec_bbI2c, keepsHost_reply (u := fun s => (i2cInit .clk .mosi s).withMode .i2c) fun _ _ => rfl⟩
  | bbOw => exact ⟨_, exec_bbOw, keepsHost_reply (u := fun s => (owInit .mosi s).withMode .ow) fun _ _ => rfl⟩
  | bbRaw => exact ⟨_, exec_bbRaw, keepsHost_reply (u := fun s => (rawInit s).withMode .raw) fun _ _ => rfl⟩
  | bbShell => exact ⟨_, fun _ => rfl, keepsHost_sendThen keepsHost_enterShell⟩
  | bbSelftest | bbSelftestLong => exact ⟨_, fun _ => rfl, keepsHost_sendThen (keepsHost_withPending _)⟩
  | i2cWrite | owWrite | rawWrite => exact ⟨_, fun _ => rfl, keepsHost_sendThen (keepsHost_withPending _)⟩
  | bbPindir a o d m c =>
    have hop := hostBlindOp_of_eq (readDirs_after_pinDirEvents a o d m c)
    exact ⟨_, exec_bbPindir a o d m c, keepsHost_replyValue hop ([·])⟩
  | bbPinset p q a o d m c =>
    exact ⟨_, exec_bbPinset p q a o d m c,
      keepsHost_replyValue ((readLevels_hostBlind _).comp (hostBlind_emit fun _ _ => rfl)) ([·])⟩
  | i2cExit | owExit | rawExit => exact ⟨_, fun _ => rfl, keepsHost_subModeExit⟩
  | i2cPeriph w x y z | owPeriph w x y z | rawPeriph w x y z => exact ⟨_, fun _ => rfl, keepsHost_periph y z⟩
  | i2cStart => exact ⟨_, exec_i2cStart, hevents fun _ _ => rfl⟩
  | i2cStop => exact ⟨_, exec_i2cStop, hevents fun _ _ => rfl⟩
  | i2cAck => exact ⟨_, exec_i2cAck, hevents fun _ _ => rfl⟩
  | i2cNack => exact ⟨_, exec_i2cNack, hevents fun _ _ => rfl⟩
  | i2cRead => exact ⟨_, exec_i2cRead, keepsHost_replyValue i2cReadByte_hostBlind ([·])⟩
  | owReset => exact ⟨_, exec_owReset, keepsHost_reply (owReset_hostBlind false).snd⟩
  | owRead => exact ⟨_, exec_owRead, keepsHost_replyValue owReadByte_hostBlind ([·])⟩
  | owSearchRom => exact ⟨_, exec_search (.inl ⟨rfl, rfl⟩), keepsHost_record (owFindFirst_hostBlind _)⟩
  | owSearchAlarm => exact ⟨_, exec_search (.inr ⟨rfl, rfl⟩), keepsHost_record (owFindFirst_hostBlind _)⟩
  | rawStart => exact ⟨_, exec_rawStart, hevents fun _ _ => rfl⟩
  | rawStop => exact ⟨_, exec_rawStop, hevents fun _ _ => rfl⟩
  | rawDatLow => exact ⟨_, exec_rawDatLow, hevents fun _ _ => rfl⟩
  | rawDatHigh => exact ⟨_, exec_rawDatHigh, hevents fun _ _ => rfl⟩
  | rawCsLow | rawCsHigh | rawTick | rawClkLow | rawClkHigh =>
    exact ⟨_, fun _ => rfl, keepsHost_reply (hostBlind_emit fun _ _ => rfl)⟩
  | rawReadByte => exact ⟨_, exec_rawReadByte, keepsHost_replyValue rawReadByte_hostBlind ([·])⟩
  | rawReadBit => exact ⟨_, exec_rawReadBit, keepsHost_replyValue rawReadBit_hostBlind fun b => [bitByte b]⟩
  | rawPeek => exact ⟨_, exec_rawPeek, keepsHost_replyValue rawPeek_hostBlind fun b => [bitByte b]⟩
  | rawSpeed tier =>
    exact ⟨_, fun _ => rfl,
      keepsHost_reply (u := fun s => s.withRaw { s.raw with halfBitDelayUs := Config.rawTierUs tier }) fun _ _ => rfl⟩
  | rawConfig w x y z =>
    have hset : HostBlind fun s => s.withRaw (rawConfigured s.raw w x y) := fun _ _ => rfl
    have happly : HostBlind rawApplyConfig := hostBlind_emit fun _ _ => rfl
    exact ⟨_, exec_rawConfig w x y z, keepsHost_reply (happly.comp hset)⟩
  | bbReset | bbVersion | bbUnknown | i2cVersion | i2cSpeed | i2cUnknown | owVersion | owUnknown | rawVersion
  | rawUnknown => exact ⟨_, fun _ => rfl, keepsHost_reply hostBlind_id⟩
  | selCcproxy | selShell | selZero | selOther | ccPing | ccEnter | ccExit | ccChipId | ccStatus | ccPc | ccStep
  | ccExec1 | ccExec2 | ccExec3 | ccBurstWrite | ccRdCfg | ccWrCfg | ccChipErase | ccResume | ccHalt | ccInstrVer
  | ccInstrUpd | ccUnknown => cases hi

/-! ### The parts of a bit-bang framer -/

/-- A bit-bang mode's table has one command for a byte, whatever follows it. -/
theorem decode_bitBang_byte {m : Mode} (hm : m.bitBang = true) (b : Byte) :
    ∃ i, i.context.mode.bitBang = true ∧ ∀ rest, decode ⟨m, false⟩ (b :: rest) = .ok (i, rest) := by
  cases m with
  | bbio => exact ⟨_, congrArg (·.mode.bitBang) (decodeBbio_context b), fun _ => rfl⟩
  | i2c => exact ⟨_, congrArg (·.mode.bitBang) (decodeI2c_context b), fun _ => rfl⟩
  | ow => exact ⟨_, congrArg (·.mode.bitBang) (decodeOw_context b), fun _ => rfl⟩
  | raw => exact ⟨_, congrArg (·.mode.bitBang) (decodeRaw_context b), fun _ => rfl⟩
  | select | ccproxy | shell => cases hm

/-- A step that answers a next state has a command in progress of its own mode, or none. -/
theorem commandOk_of_step {s t : State} (h : step s = .next t) : s.commandOk = true := by
  have hfound : fetch s ≠ .stuck := by
    intro hstuck
    simp [step, hstuck] at h
  by_contra hbad
  refine hfound ?_
  cases hlisting : s.listing with
  | true =>
    have hforeign : ¬(s.mode = .ow ∧ s.pending = .none) := by simpa [State.commandOk, hlisting] using hbad
    simp [fetch, hlisting, hforeign]
  | false =>
    rw [commandOk_iff hlisting] at hbad
    cases hpending : s.pending with
    | none =>
      rw [hpending] at hbad
      exact absurd trivial hbad
    | bulk m k =>
      rw [hpending] at hbad
      have hforeign : ¬(s.mode = m.mode ∧ 1 ≤ k ∧ k ≤ 16) := hbad
      simp [fetch, hlisting, hpending, hforeign]
    | selfTest =>
      rw [hpending] at hbad
      have hforeign : s.mode ≠ .bbio := hbad
      simp [fetch, hlisting, hpending, hforeign]
    | upload off =>
      rw [hpending] at hbad
      have hforeign : s.mode ≠ .ccproxy := hbad
      simp [fetch, hlisting, hpending, hforeign]

theorem keepsHost_bulkByte (m : BulkMode) (k : Nat) (b : Byte) : KeepsHost (bulkByte m k b) :=
  keepsHost_answer (bulkUnit_hostBlind m b) ([·]) (keepsHost_withPending (bulkLeft m k))

theorem keepsHost_selfTestClose : KeepsHost selfTestClose := keepsHost_reply fun _ _ => rfl

/-- A step that consumes the byte `b` in a bit-bang mode is the same part of the framer, whatever the host's side holds
beside `b`. -/
theorem step_consumes {c : State} (hmode : c.mode.bitBang = true) (hok : c.commandOk = true)
    (hlisting : c.listing = false) (b : Byte) :
    ∃ f, KeepsHost f ∧ ∀ h rest, h.bytes = b :: rest →
      step (c.hosted h) = .next (f (c.hosted { h with bytes := rest })) := by
  have hbelongs := (commandOk_iff hlisting).mp hok
  cases hpending : c.pending with
  | none =>
    obtain ⟨i, hi, hdecode⟩ := decode_bitBang_byte hmode b
    obtain ⟨f, hexec, hf⟩ := exec_keepsHost hi
    refine ⟨f, hf, fun h rest hbytes => ?_⟩
    obtain ⟨hrun, -, -⟩ := stepRunsTheDecodedInstruction (c.hosted h) i rest hlisting hpending
    have hnext : decode ⟨c.mode, false⟩ h.bytes = .ok (i, rest) := by rw [hbytes, hdecode]
    exact (hrun (.inl hmode) hnext).trans (hexec _)
  | bulk m k =>
    rw [hpending] at hbelongs
    obtain ⟨hm, hpos, hk⟩ := hbelongs
    refine ⟨_, keepsHost_bulkByte m (k - 1) b, fun h rest hbytes => ?_⟩
    have hleft : c.pending = .bulk m (k - 1 + 1) := by rw [hpending, Nat.sub_add_cancel hpos]
    exact step_of_bulk (s := c.hosted h) hm hlisting hleft (by omega) hbytes
  | selfTest =>
    rw [hpending] at hbelongs
    refine ⟨_, keepsHost_selfTestClose, fun h rest hbytes => ?_⟩
    have hstep := step_of_selfTest (s := c.hosted h) hbelongs hpending hlisting
    rwa [withNextByte_cons (s := c.hosted h) hbytes] at hstep
  | upload off =>
    rw [hpending] at hbelongs
    rw [show c.mode = .ccproxy from hbelongs] at hmode
    cases hmode

/-- A further turn of a search listing takes nothing of the host's (R220). -/
theorem step_lists {c : State} (hok : c.commandOk = true) (hlisting : c.listing = true) :
    ∃ f, KeepsHost f ∧ ∀ h, step (c.hosted h) = .next (f (c.hosted h)) := by
  obtain ⟨hmode, hpending⟩ : c.mode = .ow ∧ c.pending = .none := by simpa [State.commandOk, hlisting] using hok
  refine ⟨_, keepsHost_record (op := fun s => ((owFindNext s).1, (owFindNext s).2.withListing false)) ?_,
    fun h => step_of_listing (s := c.hosted h) hmode hpending hlisting⟩
  intro s h
  dsimp only
  rw [owFindNext_hostBlind s h]
  rfl

/-- The same part of the framer, run on two states with the same rest, issues the same events and keeps the hosts' sides
beside each other. -/
theorem KeepsHost.sameButChunks {f : State → State} (hf : KeepsHost f) (c : State) {h k : HostSide}
    (hsame : h.Rechunked k) :
    (f (c.hosted h)).trace.filter (fun e => !e.isRecv) = (f (c.hosted k)).trace.filter (fun e => !e.isRecv)
      ∧ ((f (c.hosted h)).mode.bitBang = true → SameButChunks (f (c.hosted h)) (f (c.hosted k))) := by
  obtain ⟨bs, hs, hbs⟩ := hf c h
  obtain ⟨cs, ks, hcs⟩ := hf c k
  rw [hs, ks]
  refine ⟨hosted_trace_filter hsame (f c), fun hmode => ?_⟩
  rw [hbs hmode, hcs hmode]
  exact sameButChunks_hosted hsame (f c)

/-- Two such hosts have the same next byte, where both have one at hand. -/
theorem HostSide.Rechunked.sameNext {h k : HostSide} (hsame : h.Rechunked k) {b b' : Byte} {rest more : List Byte}
    (hh : h.bytes = b :: rest) (hk : k.bytes = b' :: more) : b = b' := by
  have hstream := hsame.stream
  rw [HostSide.stream, HostSide.stream, hh, hk] at hstream
  exact List.head_eq_of_cons_eq hstream

/-- Two such hosts stay so when the same byte of both is consumed. -/
theorem HostSide.Rechunked.consumed {h k : HostSide} (hsame : h.Rechunked k) {b : Byte} {rest more : List Byte}
    (hh : h.bytes = b :: rest) (hk : k.bytes = b :: more) :
    Rechunked { h with bytes := rest } { k with bytes := more } := by
  have hstream := hsame.stream
  rw [HostSide.stream, HostSide.stream, hh, hk] at hstream
  exact ⟨List.tail_eq_of_cons_eq hstream, hsame.connected, hsame.past⟩

/-- Settles O7: a receive only moves the end of a chunk (`sameButChunks_awaitInbuf`); any other step of the two states
is one part of the framer (`step_consumes`, `step_lists`), which keeps the hosts' sides (`KeepsHost.sameButChunks`). -/
theorem chunkBoundariesDoNotMatter : Obligations.ChunkBoundariesDoNotMatter := by
  intro s u s' hsame hmode hstep
  obtain ⟨hhost, hbare⟩ := sameButChunks_iff.mp hsame
  have hok := commandOk_of_step hstep
  refine ⟨fun hwaits => ?receives, fun hconsumes => ?consumes⟩
  case receives =>
    obtain ⟨-, hbytes⟩ := (waits_bitBang hmode).mp hwaits
    obtain rfl : awaitInbuf s = s' := by simpa [step_waiting_bitBang hmode hwaits] using hstep
    exact (sameButChunks_awaitInbuf hbytes hhost.connected.1).trans hsame
  case consumes =>
    have hu : s.bare.hosted u.host = u := by rw [hbare, State.bare_hosted_host]
    cases hlisting : s.listing with
    | true =>
      obtain ⟨f, hf, hsteps⟩ := step_lists (c := s.bare) hok hlisting
      obtain rfl : s' = f s := Host.Outcome.next.inj (hstep.symm.trans (hsteps s.host))
      have hafter := hf.sameButChunks s.bare hhost
      rw [State.bare_hosted_host, hu] at hafter
      exact ⟨f u, hu ▸ hsteps u.host, hafter⟩
    | false =>
      obtain ⟨hsbytes, hubytes⟩ : s.inbuf ≠ [] ∧ u.inbuf ≠ [] := by simpa [hlisting] using hconsumes
      obtain ⟨b, rest, hs⟩ := List.exists_cons_of_ne_nil hsbytes
      obtain ⟨b', more, hmore⟩ := List.exists_cons_of_ne_nil hubytes
      obtain rfl : b = b' := hhost.sameNext hs hmore
      obtain ⟨f, hf, hsteps⟩ := step_consumes (c := s.bare) hmode hok hlisting b
      obtain rfl := Host.Outcome.next.inj (hstep.symm.trans (hsteps s.host rest hs))
      exact ⟨_, hu ▸ hsteps u.host more hmore, hf.sameButChunks s.bare (hhost.consumed hs hmore)⟩

end Sys2Proof.Machine
end

section
/-! SUPPORT. The proxy's commands beside the debug engine (spec 45_ccproxy.md R465, R475, R481, R483) and the table upload
(R464, R482): one byte of it, and from any byte on the bytes still to come, which are a patch of the table. -/

namespace Sys2Proof.Machine

/-! ### Commands without the engine -/

/-- The version is slot 0 as the table stands (R343). -/
theorem dwInstrVersion_eq (s : State) : dwInstrVersion s = s.dw.table[0] := rfl

theorem exec_ccPing (a0 a1 a2 : Byte) (s : State) : exec (.ccPing a0 a1 a2) s = .next (reply ok0 s) := rfl

theorem exec_ccInstrVer (a0 a1 a2 : Byte) (s : State) :
    exec (.ccInstrVer a0 a1 a2) s = .next (reply (ok8 s.dw.table[0]) s) := by
  rw [← dwInstrVersion_eq]
  rfl

theorem exec_ccBurstWrite (a0 a1 a2 : Byte) (s : State) :
    exec (.ccBurstWrite a0 a1 a2) s = .next (reply (errFrame 0xFF#8) s) := rfl

theorem exec_ccUnknown (op a0 a1 a2 : Byte) (s : State) :
    exec (.ccUnknown op a0 a1 a2) s = .next (reply (errFrame 0xFF#8) s) := rfl

/-- Settles O41: each of the four commands is its reply alone, which does not look at the latched error. -/
theorem proxyCommandsWithoutTheEngine : Obligations.ProxyCommandsWithoutTheEngine := fun s op a0 a1 a2 =>
  ⟨answers_of_reply (exec_ccPing a0 a1 a2 s) rfl, answers_of_reply (exec_ccInstrVer a0 a1 a2 s) rfl,
    answers_of_reply (exec_ccBurstWrite a0 a1 a2 s) rfl, answers_of_reply (exec_ccUnknown op a0 a1 a2 s) rfl⟩

/-! ### One byte of a table upload -/

theorem exec_ccInstrUpd (a0 a1 a2 : Byte) (s : State) :
    exec (.ccInstrUpd a0 a1 a2) s = .next (sendThen readyFrame (·.withPending (.upload 0)) s) := rfl

/-- `s` with the debug-wire table `table`. -/
def State.withTable (s : State) (table : Vector Byte 16) : State := s.withDw { s.dw with table := table }

/-- A patch of one byte writes its slot (R342). -/
theorem patchTable_byte (t : Vector Byte 16) (off : Fin 16) (b : Byte) :
    patchTable t off.val [b] = t.set off.val b := by
  simp only [patchTable]
  ext i hi
  simp [Vector.getElem_set, Vector.getElem_setIfInBounds]

/-- A patch of all sixteen slots leaves nothing of the table before. -/
theorem patchTable_whole (t table : Vector Byte 16) : patchTable t 0 table.toList = table := by
  ext i hi
  rw [patchTable_get, dif_pos (by simpa using hi)]
  simp

/-- The patch of an uploaded byte. -/
theorem dwUpdateTable_byte (off : Fin 16) (b : Byte) (s : State) :
    (dwUpdateTable [b] off.val 1 s).2 = s.withTable (s.dw.table.set off.val b) := by
  rw [dwUpdateTable_in_range off.isLt, List.take_of_length_le (le_refl 1), patchTable_byte]
  rfl

theorem uploadByte_more {off : Fin 16} (h : off.val + 1 < 16) (b : Byte) (s : State) :
    uploadByte off b s = (s.withTable (s.dw.table.set off.val b)).withPending (.upload ⟨off.val + 1, h⟩) := by
  rw [uploadByte, dwUpdateTable_byte, dif_pos h]

theorem uploadByte_last {off : Fin 16} (h : ¬ off.val + 1 < 16) (b : Byte) (s : State) :
    uploadByte off b s =
      reply (ok8 (s.dw.table.set off.val b)[0]) ((s.withTable (s.dw.table.set off.val b)).withPending .none) := by
  rw [uploadByte, dwUpdateTable_byte, dif_neg h, dwInstrVersion_eq]
  rfl

theorem withNextAccByte_cons {s : State} {b : Byte} {rest : List Byte} (h : s.acc = b :: rest)
    (k : Byte → State → State) : withNextAccByte k s = k b (s.withAcc rest) := by
  rw [withNextAccByte, h]

section Uploading

variable {s : State} (hmode : s.mode = .ccproxy) (hlisting : s.listing = false)
include hmode hlisting

/-- A step of an upload in progress. -/
theorem step_of_upload {off : Fin 16} (hpending : s.pending = .upload off) :
    step s = .next (withNextAccByte (uploadByte off) s) := by
  refine step_of_idle ?_
  simp [fetch, hlisting, hpending, hmode]

/-- Any byte but the last is written, and the next one awaited. -/
theorem step_of_upload_more {off : Fin 16} {b : Byte} {rest : List Byte} (hpending : s.pending = .upload off)
    (hbytes : s.acc = b :: rest) (h : off.val + 1 < 16) :
    step s = .next (((s.withAcc rest).withTable (s.dw.table.set off.val b)).withPending (.upload ⟨off.val + 1, h⟩)) := by
  rw [step_of_upload hmode hlisting hpending, withNextAccByte_cons hbytes, uploadByte_more h]
  rfl

/-- The last byte is written, and the new version sent, with the two outcomes of its `Send`. -/
theorem step_of_upload_last {off : Fin 16} {b : Byte} {rest : List Byte} (hpending : s.pending = .upload off)
    (hbytes : s.acc = b :: rest) (h : ¬ off.val + 1 < 16) :
    let table := s.dw.table.set off.val b
    let t := ((s.withAcc rest).withTable table).withPending .none
    (s.env.sendResult = .sent → step s = .next (t.sending (ok8 table[0]) .sent))
    ∧ (s.env.sendResult ≠ .sent → step s = .next (transportFault (t.sending (ok8 table[0]) s.env.sendResult))) := by
  intro table t
  have hstep : step s = .next (reply (ok8 table[0]) t) := by
    rw [step_of_upload hmode hlisting hpending, withNextAccByte_cons hbytes, uploadByte_last h]
    rfl
  rw [hstep]
  exact ⟨fun hsent => congrArg _ (sendThen_sent (s := t) hsent),
    fun hfailed => congrArg _ (sendThen_failed (s := t) hfailed)⟩

/-- A disconnect leaves an upload for `SELECT`, with the slots already received (R464, R525). -/
theorem step_of_upload_disconnect {off : Fin 16} {more : List RecvResult} (hpending : s.pending = .upload off)
    (hbytes : s.acc = []) (hrx : s.env.rx = .disconnect :: more) :
    step s = .next (transportFault (s.received .disconnect more)) := by
  rw [step_of_upload hmode hlisting hpending, withNextAccByte_nil hbytes, awaitAcc_received hrx]

end Uploading

/-! ### The whole upload -/

/-- The bytes still to come, from any byte of the upload on: they patch the slots that are left, and the last is
answered. -/
theorem runs_upload (rest bytes : List Byte) :
    ∀ (s : State) (off : Fin 16) (b : Byte), s.mode = .ccproxy → s.listing = false → s.pending = .upload off →
      off.val + (bytes.length + 1) = 16 → s.acc = b :: bytes ++ rest → s.env.sendResult = .sent →
      let table := patchTable s.dw.table off.val (b :: bytes)
      Runs (bytes.length + 1) s
        ((((s.withAcc rest).withTable table).withPending .none).sending (ok8 table[0]) .sent) := by
  induction bytes with
  | nil =>
    intro s off b hmode hlisting hpending hleft hbytes hsent
    obtain ⟨hanswers, -⟩ := step_of_upload_last hmode hlisting hpending hbytes hleft.not_lt
    rw [← patchTable_byte] at hanswers
    exact runs_succ (hanswers hsent) rfl
  | cons c bytes ih =>
    intro s off b hmode hlisting hpending hleft hbytes hsent
    rw [List.length_cons] at hleft
    have hmore : off.val + 1 < 16 := by omega
    have hnext : off.val + 1 + (bytes.length + 1) = 16 := by omega
    have hstep := step_of_upload_more hmode hlisting hpending hbytes hmore
    rw [← patchTable_byte] at hstep
    exact runs_succ hstep (ih _ ⟨off.val + 1, hmore⟩ c hmode hlisting rfl hnext rfl hsent)

/-- Sixteen bytes at hand become the table. -/
theorem runs_whole_upload {s : State} {table : Vector Byte 16} {rest : List Byte} (hmode : s.mode = .ccproxy)
    (hlisting : s.listing = false) (hpending : s.pending = .upload 0) (hbytes : s.acc = table.toList ++ rest)
    (hsent : s.env.sendResult = .sent) :
    Runs 16 s ((((s.withAcc rest).withTable table).withPending .none).sending (ok8 table[0]) .sent) := by
  obtain ⟨b, bytes, hcons⟩ : ∃ b bytes, table.toList = b :: bytes :=
    List.exists_cons_of_length_pos (by simp)
  have hlength : bytes.length + 1 = 16 := by rw [← List.length_cons (a := b), ← hcons, Vector.length_toList]
  rw [hcons] at hbytes
  have hruns := runs_upload rest bytes s 0 b hmode hlisting hpending ((Nat.zero_add _).trans hlength) hbytes hsent
  rw [← hcons, hlength] at hruns
  rwa [show patchTable s.dw.table (0 : Fin 16).val table.toList = table from patchTable_whole _ _] at hruns

/-- Settles O49: the READY reply, the two shapes of a byte's step (`step_of_upload_more`, `step_of_upload_last` with the
two outcomes of its `Send`), the disconnect, and the induction over the bytes to come (`runs_upload`). -/
theorem tableUploadReplacesTheTable : Obligations.TableUploadReplacesTheTable := by
  intro s a0 a1 a2
  refine ⟨answers_of_sendThen (exec_ccInstrUpd a0 a1 a2 s) rfl, fun hmode hlisting => ⟨?byte, ?disconnect, ?whole⟩⟩
  case byte =>
    intro off b rest hpending hbytes t answer
    have hlast (hoff : off = 15) : ¬ off.val + 1 < 16 := by subst hoff; decide
    refine ⟨step_of_upload_more hmode hlisting hpending hbytes, fun hoff => ?accepted, fun hoff => ?failed⟩
    case accepted => exact (step_of_upload_last hmode hlisting hpending hbytes (hlast hoff)).left
    case failed => exact (step_of_upload_last hmode hlisting hpending hbytes (hlast hoff)).right
  case disconnect =>
    intro off more hpending hbytes hrx
    exact ⟨_, step_of_upload_disconnect hmode hlisting hpending hbytes hrx, rfl, rfl, rfl⟩
  case whole =>
    intro table rest hpending hbytes hsent
    exact runs_whole_upload hmode hlisting hpending hbytes hsent

end Sys2Proof.Machine
end

section
/-! SUPPORT. Which mode a step ends in (spec 60_exceptions.md R525, R533): every shape of a step ends in the mode it was
heading for, or in `SELECT` because a transport operation failed on the way (`EndsIn`). -/

namespace Sys2Proof.Machine

/-! ### The handling of a `TransportFault` (R525) -/

/-- Settles O8: `enterSelect` writes every field of the framer and of the selector, and the raw session is the one other
field that `transportFault` writes. -/
theorem transportFaultReturnsToSelect : Obligations.TransportFaultReturnsToSelect := fun _ => rfl

/-! ### The table of modes (R533) -/

theorem mayBecome_self (m : Mode) : m.mayBecome m = true := by
  cases m <;> rfl

theorem mayBecome_select (m : Mode) : m.mayBecome .select = true := by
  cases m <;> rfl

/-- `t` is in the mode `m`, or in `SELECT` after a failed transport operation. -/
def EndsIn (m : Mode) (t : State) : Prop := t.mode = m ∨ t.mode = .select

/-- An end in `SELECT` is allowed from every mode, so the table decides on the other alone. -/
theorem EndsIn.mayBecome {m next : Mode} {t : State} (h : EndsIn next t) (hnext : m.mayBecome next = true) :
    m.mayBecome t.mode = true := by
  rcases h with h | h <;> rw [h]
  · exact hnext
  · exact mayBecome_select m

/-! ### The mode after the shared operations -/

section Modes

variable {s t u : State} {m : Mode}

theorem Silent.mode (h : Silent s t) : t.mode = s.mode := by
  obtain ⟨es, n, rfl, -⟩ := h
  rfl

theorem EndsIn.sendThen {bs : List Byte} {k : State → State} (hk : ∀ v, v.mode = u.mode → (k v).mode = m) :
    EndsIn m (sendThen bs k u) := by
  rcases sendThen_cases bs k u with ⟨-, h⟩ | ⟨-, h⟩ <;> rw [h]
  · exact .inl (hk _ rfl)
  · exact .inr rfl

theorem EndsIn.reply {bs : List Byte} (h : u.mode = m) : EndsIn m (reply bs u) := .sendThen fun _ hv => hv.trans h

theorem EndsIn.listRecord {found : Bool} (h : u.mode = m) : EndsIn m (listRecord (found, u)) := by
  cases found with
  | true =>
    rw [listRecord_found]
    exact .sendThen fun _ hv => hv.trans h
  | false =>
    rw [listRecord_end]
    exact .reply h

theorem receive_mode {r : RecvResult} (h : receive s = some (r, t)) : t.mode = s.mode := by
  obtain ⟨rest, -, rfl⟩ := receive_received h
  rfl

theorem awaitInbuf_endsIn (s : State) : EndsIn s.mode (awaitInbuf s) := by
  rcases awaitInbuf_cases s with ⟨-, h⟩ | ⟨r, rest, -, h⟩ <;> rw [h]
  · exact .inl rfl
  · cases r with
    | chunk | timeout => exact .inl rfl
    | disconnect => exact .inr rfl

theorem awaitAcc_endsIn (s : State) : EndsIn s.mode (awaitAcc s) := by
  rcases awaitAcc_cases s with ⟨-, h⟩ | ⟨r, rest, -, h⟩ <;> rw [h]
  · exact .inl rfl
  · cases r with
    | chunk | timeout => exact .inl rfl
    | disconnect => exact .inr rfl

/-- The shell leaves its mode by its exit alone (R416). -/
theorem shellStep_endsIn (s : State) : EndsIn s.mode (shellStep s) := by
  cases hport : s.env.port with
  | nil => exact .inl (congrArg State.mode (shellStep_idle hport))
  | cons input more =>
    cases input with
    | exit =>
      rw [shellStep_exit hport]
      exact .inr rfl
    | call c =>
      rw [shellStep_call hport]
      exact .inl (engineOp_engineOnly c (emit [.engineCall c] { s with env := { s.env with port := more } })).mode

/-! ### The mode after a command and after a step -/

/-- A command ends in its own mode, in the one it enters or leaves to, or in `SELECT`. -/
theorem CommandEffect.mayBecome {ctx : Context} (h : CommandEffect s ctx t) (hmode : s.mode = ctx.mode) :
    ctx.mode.mayBecome t.mode = true := by
  cases h with
  | replies hsilent => exact (EndsIn.reply (hsilent.mode.trans hmode)).mayBecome (mayBecome_self _)
  | debugs _ hsilent | configuresRaw _ hsilent => exact (EndsIn.reply (hsilent.mode.trans hmode)).mayBecome rfl
  | lists _ _ hsilent => exact (EndsIn.listRecord (hsilent.mode.trans hmode)).mayBecome rfl
  | @begins m bs p _ =>
    have hend : EndsIn m (Machine.sendThen bs (·.withPending p) s) := .sendThen fun _ hv => hv.trans hmode
    exact hend.mayBecome (mayBecome_self m)
  | entersI2c => exact EndsIn.mayBecome (next := .i2c) (.reply rfl) rfl
  | entersOw => exact EndsIn.mayBecome (next := .ow) (.reply rfl) rfl
  | entersRaw => exact EndsIn.mayBecome (next := .raw) (.reply rfl) rfl
  | entersShell => exact EndsIn.mayBecome (next := .shell) (.sendThen fun _ _ => rfl) rfl
  | leaves hm =>
    have hend : EndsIn .bbio (subModeExit s) := .reply rfl
    rcases hm with rfl | rfl | rfl <;> exact hend.mayBecome rfl
  | selectsBbio => exact EndsIn.mayBecome (next := .bbio) (.reply rfl) rfl
  | selectsProxy =>
    rw [ccproxyEnter_mode]
    rfl
  | selectsShell => rfl
  | countsZero | endsZeroRun => exact EndsIn.mayBecome (.inl hmode) rfl

theorem Begins.mode_eq {ctx : Context} (h : Begins s ctx u) : u.mode = s.mode := by
  cases h with
  | chunk _ _ _ hrecv _ => exact (receive_mode hrecv :)
  | _ => rfl

/-- Only a command changes the mode to another than `SELECT`. -/
theorem StepEffect.mayBecome (h : StepEffect s t) : s.mode.mayBecome t.mode = true := by
  have hkept (hend : EndsIn s.mode t) : s.mode.mayBecome t.mode = true := hend.mayBecome (mayBecome_self s.mode)
  cases h with
  | command hbegins heffect =>
    rw [hbegins.mode]
    exact heffect.mayBecome (hbegins.mode_eq.trans hbegins.mode)
  | payload _ _ _ _ hsilent => exact hkept (.sendThen fun _ hv => hv.trans hsilent.mode)
  | uploads | waits => exact hkept (.inl rfl)
  | receives => exact hkept (awaitInbuf_endsIn s)
  | accumulates => exact hkept (awaitAcc_endsIn s)
  | selectorTimeout _ hrecv | selectorDisconnect _ _ hrecv => exact hkept (.inl (receive_mode hrecv :))
  | shell => exact hkept (shellStep_endsIn s)

end Modes

/-- Settles O58: the table holds for each shape of a step (`StepEffect.mayBecome`). -/
theorem modesChangeOnlyAsTheTableSays : Obligations.ModesChangeOnlyAsTheTableSays :=
  fun _ _ h => (step_effect h).mayBecome

end Sys2Proof.Machine
end

section
/-! SUPPORT. A `Send` that fails (spec 60_exceptions.md R525, R527): what a command has done when it sends (`Prepares`) is all
that the `TransportFault` leaves of it. -/

namespace Sys2Proof.Machine

/-! ### What a command does before its `Send` -/

/-- The command `i` may have turned `s` into `u` when it sends: activity without transport, and no session is written but
those the command is about. The raw session counts as the fault would leave it, which resets it in `RAW`. A field that is
not given is one the command leaves as it was. -/
structure Prepares (i : Instr) (s u : State) : Prop where
  wordless : Wordless s u := by exact .of_same rfl rfl
  port : u.env.port = s.env.port := by rfl
  raw : (transportFault u).raw = if i.context.mode = .raw ∨ i = .bbRaw then rawDefaults else s.raw
  i2c : i ≠ .bbI2c → u.i2c = s.i2c := by exact fun _ => rfl
  ow : i ≠ .bbOw → i ≠ .owSearchRom → i ≠ .owSearchAlarm → u.ow = s.ow := by exact fun _ _ _ => rfl
  dw : i.context.mode ≠ .ccproxy → u.dw = s.dw := by exact fun _ => rfl

section Prepares

variable {i : Instr} {s t u : State}

/-- A command that has done nothing yet, in its mode. -/
theorem Prepares.refl (hmode : s.mode = i.context.mode) (hi : i ≠ .bbRaw) : Prepares i s s where
  raw := by simp [hmode, hi]

theorem Prepares.silent (h : Prepares i s t) (hsilent : Silent t u) : Prepares i s u := by
  have hwordless := h.wordless.trans hsilent.wordless
  obtain ⟨es, n, rfl, -⟩ := hsilent
  exact { h with wordless := hwordless }

theorem Prepares.of_silent (hmode : s.mode = i.context.mode) (hi : i ≠ .bbRaw) (h : Silent s u) : Prepares i s u :=
  (Prepares.refl hmode hi).silent h

theorem Prepares.withListing {b : Bool} (h : Prepares i s u) : Prepares i s (u.withListing b) :=
  { h with wordless := h.wordless.trans (.of_same rfl rfl) }

/-- In `RAW` it does not matter what is written to the raw session. -/
theorem Prepares.writesRaw {x : RawSession} (hmode : s.mode = .raw) (hctx : i.context.mode = .raw) :
    Prepares i s (s.withRaw x) where
  raw := by simp [hmode, hctx]

theorem Prepares.writesDw {x : DwSession} (hmode : s.mode = .ccproxy) (hctx : i.context.mode = .ccproxy) :
    Prepares i s (s.withDw x) where
  raw := by
    have hi : i ≠ .bbRaw := by rintro rfl; cases hctx
    simp [hmode, hctx, hi]
  dw h := absurd hctx h

theorem Prepares.searches {x : OwSession} (hmode : s.mode = .ow) (hi : i = .owSearchRom ∨ i = .owSearchAlarm) :
    Prepares i s (s.withOw x) where
  raw := by rcases hi with rfl | rfl <;> simp [hmode, Instr.context]
  ow _ hrom halarm := (hi.elim hrom halarm).elim

theorem Prepares.entersI2c {x : I2cSession} : Prepares .bbI2c s ((s.withI2c x).withMode .i2c) where
  raw := rfl
  i2c h := absurd rfl h

theorem Prepares.entersOw {x : OwSession} : Prepares .bbOw s ((s.withOw x).withMode .ow) where
  raw := rfl
  ow h := absurd rfl h

theorem Prepares.entersRaw {x : RawSession} : Prepares .bbRaw s ((s.withRaw x).withMode .raw) where
  raw := rfl

/-- Leaving `RAW` resets the raw session before the announcement, so that the fault finds it reset (R411). -/
theorem Prepares.leaves (hmode : s.mode = i.context.mode) (hi : i ≠ .bbRaw) :
    Prepares i s ((s.withRaw (if s.mode = .raw then rawDefaults else s.raw)).withMode .bbio) where
  raw := by simp [hmode, hi]

/-! ### Every command -/

/-- `t` is what the command `i` makes of `s` by its one `Send` and what follows it. -/
inductive SendsPrepared (i : Instr) (s : State) : State → Prop where
  | mk {u bs k} (h : Prepares i s u) : SendsPrepared i s (sendThen bs k u)

theorem SendsPrepared.record {found : Bool} (h : Prepares i s u) : SendsPrepared i s (listRecord (found, u)) := by
  cases found with
  | true =>
    rw [listRecord_found]
    exact .mk h
  | false =>
    rw [listRecord_end]
    exact .mk h.withListing

theorem SendsPrepared.searchList {cmd : SearchCommand} (hmode : s.mode = .ow)
    (hi : i = .owSearchRom ∨ i = .owSearchAlarm) : SendsPrepared i s (searchListStart cmd s) := by
  obtain ⟨x, hbus, -⟩ := owFindFirst_busOnly cmd s
  exact .record ((Prepares.searches hmode hi).silent hbus.silent)

/-- In the modes whose commands all write the same sessions, the shape of a command says enough. -/
theorem CommandEffect.sendsPrepared (h : CommandEffect s i.context t) (hmode : s.mode = i.context.mode)
    (hctx : i.context.mode = .i2c ∨ i.context.mode = .raw ∨ i.context.mode = .ccproxy) : SendsPrepared i s t := by
  have hi : i ≠ .bbRaw := by rintro rfl; simp [Instr.context] at hctx
  generalize hc : i.context = ctx at h
  cases h with
  | replies hsilent => exact .mk (.of_silent hmode hi hsilent)
  | begins => exact .mk (.refl hmode hi)
  | leaves => exact .mk (.leaves hmode hi)
  | debugs _ hsilent => exact .mk ((Prepares.writesDw (by rw [hmode, hc]) (by rw [hc])).silent hsilent)
  | configuresRaw _ hsilent => exact .mk ((Prepares.writesRaw (by rw [hmode, hc]) (by rw [hc])).silent hsilent)
  | lists | entersI2c | entersOw | entersRaw | entersShell | selectsProxy | selectsShell | countsZero | selectsBbio
  | endsZeroRun => simp [hc] at hctx

/-- Every command of every mode but `SELECT` sends once, with no more done before than `Prepares` allows. -/
theorem exec_sendsPrepared (hselect : i.context.mode ≠ .select) (hmode : s.mode = i.context.mode) :
    ∃ t, exec i s = .next t ∧ SendsPrepared i s t := by
  have hquiet {u : State} {bs : List Byte} {k : State → State} (hi : i ≠ .bbRaw) (h : Silent s u) :
      SendsPrepared i s (sendThen bs k u) := .mk (.of_silent hmode hi h)
  cases i with
  | selCcproxy | selShell | selZero | selOther => exact absurd rfl hselect
  | bbI2c => exact ⟨_, rfl, .mk (Prepares.entersI2c.silent ((i2cInit_busOnly .clk .mosi s).silent.withMode .i2c))⟩
  | bbOw => exact ⟨_, rfl, .mk (Prepares.entersOw.silent ((owInit_busOnly .mosi s).silent.withMode .ow))⟩
  | bbRaw => exact ⟨_, rfl, .mk (Prepares.entersRaw.silent ((rawInit_busOnly s).silent.withMode .raw))⟩
  | bbPindir a o d m c => exact ⟨_, rfl, hquiet nofun (execBbPindir_silent a o d m c s)⟩
  | bbPinset p q a o d m c => exact ⟨_, rfl, hquiet nofun (execBbPinset_silent a o d m c s)⟩
  | owReset => exact ⟨_, rfl, hquiet nofun (owReset_busOnly false s).silent⟩
  | owRead => exact ⟨_, rfl, hquiet nofun (owReadByte_busOnly s).silent⟩
  | owPeriph w x y z => exact ⟨_, rfl, hquiet nofun (periph_silent y z s)⟩
  | owSearchRom => exact ⟨_, rfl, .searchList hmode (.inl rfl)⟩
  | owSearchAlarm => exact ⟨_, rfl, .searchList hmode (.inr rfl)⟩
  | owExit => exact ⟨_, rfl, .mk (.leaves hmode nofun)⟩
  | bbReset | bbVersion | bbShell | bbSelftest | bbSelftestLong | bbUnknown | owVersion | owWrite | owUnknown =>
    exact ⟨_, rfl, hquiet nofun (.refl s)⟩
  | _ =>
    obtain ⟨t, hexec, heffect⟩ := exec_effect _ s
    exact ⟨t, hexec, heffect.sendsPrepared hmode (by simp [Instr.context])⟩

/-! ### The fault -/

/-- A failed `Send` is the last event, and what came before it is the command's own activity. -/
theorem SendsPrepared.failed (h : SendsPrepared i s t) (hfailed : s.env.sendResult ≠ .sent) :
    ∃ u bs, Prepares i s u ∧ t = transportFault (u.sending bs s.env.sendResult) := by
  obtain @⟨u, bs, k, hu⟩ := h
  have hresult := hu.wordless.sendResult
  exact ⟨u, bs, hu, by rw [sendThen_failed (hresult ▸ hfailed), hresult]⟩

end Prepares

/-- Settles O9: the command's own part is `Prepares` (`exec_sendsPrepared`), and the fault after the failed `Send` writes
the framer's fields and, in `RAW`, the raw session. -/
theorem failedSendReturnsToSelect : Obligations.FailedSendReturnsToSelect := by
  intro i s hselect hmode hfailed
  obtain ⟨t, hexec, hsends⟩ := exec_sendsPrepared hselect hmode
  obtain ⟨u, bs, hu, rfl⟩ := hsends.failed hfailed
  obtain ⟨es, htrace, hquiet, hrx, htx⟩ := hu.wordless
  refine ⟨_, bs, es, hexec, ?trace, sentUnits_eq_nil hquiet, congrArg List.tail htx, hrx, hu.port, rfl, rfl, rfl, rfl,
    rfl, rfl, rfl, hu.raw, hu.i2c, hu.ow, hu.dw⟩
  case trace =>
    rw [transportFault_trace, State.sending_trace, htrace]
    rfl

end Sys2Proof.Machine
end

section
/-! SUPPORT. The guard discipline of a step (spec 70_reset_and_hazards.md R97, R575): guards are only opened inside activity
that closes them again (`Silent`), and every other event of a step stands outside a guard. -/

namespace Sys2Proof.Machine

/-- The trace keeps the guard discipline and leaves no guard open (R575). It looks at the trace alone, so it passes by
definition through every update of another field. -/
def State.GuardsClosed (s : State) : Prop := guardOpen s.trace = some false

section GuardsClosed

variable {s t u : State}

/-! ### The two ways in which a trace grows -/

/-- Outside a guard any event that is not a guard's own may come next. -/
theorem State.GuardsClosed.event {e : Event} (hs : s.GuardsClosed) (ht : t.trace = e :: s.trace)
    (hbegin : e ≠ .guardBegin) (hend : e ≠ .guardEnd) : t.GuardsClosed := by
  unfold GuardsClosed at hs ⊢
  rw [ht]
  cases e with
  | guardBegin => exact absurd rfl hbegin
  | guardEnd => exact absurd rfl hend
  | _ => simp only [guardOpen, hs]

/-- Activity that closes its guards may follow where none is open. -/
theorem Silent.guardsClosed (h : Silent s t) (hs : s.GuardsClosed) : t.GuardsClosed := by
  obtain ⟨es, n, rfl, -, -, hguard⟩ := h
  exact guardOpen_append hs hguard

theorem EngineOnly.guardsClosed (h : EngineOnly s t) (hs : s.GuardsClosed) : t.GuardsClosed := by
  obtain ⟨i2c, ow, raw, dw, -, hbus⟩ := h
  exact hbus.silent.guardsClosed hs

/-! ### The shared operations -/

theorem sendThen_guardsClosed {bs : List Byte} {k : State → State} (hk : ∀ v, v.GuardsClosed → (k v).GuardsClosed)
    (hs : s.GuardsClosed) : (sendThen bs k s).GuardsClosed := by
  have hsend (r : SendResult) : (s.sending bs r).GuardsClosed := hs.event rfl nofun nofun
  rcases sendThen_cases bs k s with ⟨-, h⟩ | ⟨-, h⟩ <;> rw [h]
  · exact hk _ (hsend _)
  · exact hsend s.env.sendResult

theorem reply_guardsClosed {bs : List Byte} (hs : s.GuardsClosed) : (reply bs s).GuardsClosed :=
  sendThen_guardsClosed (fun _ => id) hs

theorem listRecord_guardsClosed {found : Bool} (hs : s.GuardsClosed) : (listRecord (found, s)).GuardsClosed := by
  cases found with
  | true =>
    rw [listRecord_found]
    exact sendThen_guardsClosed (fun _ => id) hs
  | false =>
    rw [listRecord_end]
    exact reply_guardsClosed hs

theorem received_guardsClosed (r : RecvResult) (rest : List RecvResult) (hs : s.GuardsClosed) :
    (s.received r rest).GuardsClosed := hs.event rfl nofun nofun

theorem receive_guardsClosed {r : RecvResult} (h : receive s = some (r, t)) (hs : s.GuardsClosed) : t.GuardsClosed := by
  obtain ⟨rest, -, rfl⟩ := receive_received h
  exact received_guardsClosed r rest hs

theorem awaitInbuf_guardsClosed (hs : s.GuardsClosed) : (awaitInbuf s).GuardsClosed := by
  rcases awaitInbuf_cases s with ⟨-, h⟩ | ⟨r, rest, -, h⟩ <;> rw [h]
  · exact hs
  · cases r <;> exact received_guardsClosed _ rest hs

theorem awaitAcc_guardsClosed (hs : s.GuardsClosed) : (awaitAcc s).GuardsClosed := by
  rcases awaitAcc_cases s with ⟨-, h⟩ | ⟨r, rest, -, h⟩ <;> rw [h]
  · exact hs
  · cases r <;> exact received_guardsClosed _ rest hs

theorem emit_toShell_guardsClosed (hs : s.GuardsClosed) : (emit [.toShell] s).GuardsClosed := hs.event rfl nofun nofun

theorem ccproxyEnter_guardsClosed (hs : s.GuardsClosed) : (ccproxyEnter s).GuardsClosed := by
  unfold ccproxyEnter
  dsimp only
  split
  · exact (dwInit_busOnly _ _ _ _).silent.guardsClosed hs
  · exact hs

/-- A call through the port is its operation between two events that stand outside a guard (R416). -/
theorem engineCall_guardsClosed (c : EngineCall) (hs : s.GuardsClosed) : (engineCall c s).GuardsClosed := by
  have hcall : (emit [.engineCall c] s).GuardsClosed := hs.event rfl nofun nofun
  have hop := (engineOp_engineOnly c _).guardsClosed hcall
  exact hop.event rfl nofun nofun

theorem shellStep_guardsClosed (hs : s.GuardsClosed) : (shellStep s).GuardsClosed := by
  cases hport : s.env.port with
  | nil => rwa [shellStep_idle hport]
  | cons input more =>
    cases input with
    | exit =>
      rw [shellStep_exit hport]
      exact hs.event rfl nofun nofun
    | call c =>
      rw [shellStep_call hport]
      exact engineCall_guardsClosed c hs

/-! ### Commands and steps -/

theorem Begins.guardsClosed {ctx : Context} (h : Begins s ctx u) (hs : s.GuardsClosed) : u.GuardsClosed := by
  cases h with
  | chunk _ _ _ hrecv _ => exact (receive_guardsClosed hrecv hs :)
  | _ => exact hs

theorem CommandEffect.guardsClosed {ctx : Context} (h : CommandEffect s ctx t) (hs : s.GuardsClosed) :
    t.GuardsClosed := by
  cases h with
  | replies hsilent | debugs _ hsilent | configuresRaw _ hsilent | entersI2c hsilent | entersOw hsilent
  | entersRaw hsilent => exact reply_guardsClosed (hsilent.guardsClosed hs :)
  | lists _ _ hsilent => exact listRecord_guardsClosed (hsilent.guardsClosed hs)
  | begins => exact sendThen_guardsClosed (fun _ => id) hs
  | entersShell => exact sendThen_guardsClosed (fun _ hv => emit_toShell_guardsClosed hv) hs
  | leaves | selectsBbio => exact reply_guardsClosed hs
  | selectsProxy => exact ccproxyEnter_guardsClosed hs
  | selectsShell => exact emit_toShell_guardsClosed hs
  | countsZero | endsZeroRun => exact hs

theorem StepEffect.guardsClosed (h : StepEffect s t) (hs : s.GuardsClosed) : t.GuardsClosed := by
  cases h with
  | command hbegins heffect => exact heffect.guardsClosed (hbegins.guardsClosed hs)
  | payload _ _ _ _ hsilent => exact sendThen_guardsClosed (fun _ => id) (hsilent.guardsClosed hs)
  | uploads | waits => exact hs
  | receives => exact awaitInbuf_guardsClosed hs
  | accumulates => exact awaitAcc_guardsClosed hs
  | selectorTimeout _ hrecv | selectorDisconnect _ _ hrecv => exact (receive_guardsClosed hrecv hs :)
  | shell => exact shellStep_guardsClosed hs

end GuardsClosed

/-- Settles O55: no shape of a step opens a guard that it does not close (`StepEffect.guardsClosed`). -/
theorem stepKeepsTheGuardDiscipline : Obligations.StepKeepsTheGuardDiscipline :=
  fun _ _ hclosed h => (step_effect h).guardsClosed hclosed

end Sys2Proof.Machine
end
